-- ==== Sys2Proof/Word.lean ====
section
/-! DEFINITION. The data the core works on: bytes, four-byte words, byte matrices, blocks and the 32-bit command word
(00_scope.md R7, R10, R11, R12; 20_memory.md R51; 30_encoding.md R70), with the plainest arithmetic of a word. -/

namespace Sys2Proof

/-- A byte is 8 bits and also the number 0 to 255 it spells, bit 7 the most significant (R10). -/
abbrev Byte := BitVec 8

/-- A Word is 4 contiguous bytes, addressed by offset; it is never read as a number and has no endianness (R11, R51). -/
abbrev Word := Vector Byte 4

/-- An `m x n` matrix of bytes, `A[r][c]` the byte in row `r`, column `c`; a row is `A[r]` (R12, R90). The shape is part
of the type, and the degenerate shapes `m = 0` and `n = 0` are legal. -/
abbrev Mat (m n : Nat) := Vector (Vector Byte n) m

/-- A Block: 4 rows by 4 columns of bytes, the unit of cipher state (R7, R21). -/
abbrev Block := Mat 4 4

/-- The 32-bit command word `cw` (R70). -/
abbrev CommandWord := BitVec 32

/-- The Word `[a0, a1, a2, a3]`, `a0` at offset 0 (R11). -/
def wordOf (a0 a1 a2 a3 : Byte) : Word := #v[a0, a1, a2, a3]

/-- The zero word. -/
def wordZero : Word := Vector.replicate 4 0

/-- XOR of words is bytewise at equal offsets (R10, R51). -/
def wordXor (a b : Word) : Word := Vector.ofFn fun o => a[o] ^^^ b[o]

end Sys2Proof
end

