-- ==== Sys2Proof/Config.lean ====
section
/-! DEFINITION. The parameters of the hardware (00_scope.md R7, R8, R9).

R7 and R8 fix the numbers below. R9 leaves four parameters open "which the model takes as arguments and no rule's result
depends on"; none of them needs a value here, and none is given one:
* `MAX_PAYLOAD`: payloads are lists of bytes of any length (R9: "a model may take it as unbounded"; log entry 3);
* `N_LANES`: not observable (R64); the lane-wise form is `Sys2Proof.Machine.encryptInOrder`, and an obligation says that
  every order of the blocks gives the reply of the command (log entry 10);
* `LATENCY(op)`: the model is untimed, a command is one step (R262; log entry 10);
* `SBOX_IMPL`: not observable; the table of R126 is normative (log entry 10).
The spec leaves no result of any command undefined, so the model has no free value. -/

namespace Sys2Proof.Config

/-- `Nb`, the number of state columns, "fixed at 4" (R7). -/
abbrev nb : Nat := 4

/-- `N_MREG`, the number of matrix registers (R8). -/
abbrev nMreg : Nat := 4

/-- The largest number of rounds, that of a 32-byte key (R7). -/
abbrev maxRounds : Nat := 14

/-- `W_WORDS`, the capacity of the round-key word store, `4 * (14 + 1)` (R8). -/
abbrev wWords : Nat := 4 * (maxRounds + 1)

/-- `KEYBUF_BYTES`, the capacity of the key buffer (R8). -/
abbrev keybufBytes : Nat := 32

/-- `CW_BITS`, the width of a command word (R8). -/
abbrev cwBits : Nat := 32

/-- `IMM_BITS`, the width of the immediate field (R8). -/
abbrev immBits : Nat := 16

/-- The number of control and status registers `SREAD` can name (R28). -/
abbrev nCsr : Nat := 4

end Sys2Proof.Config
end

