-- ==== Sys2Proof/Syntax.lean ====
section
/-! DEFINITION. The commands of the core: one constructor per row of the opcode map (30_encoding.md R74), with the operands
the row names. Data operands (bytes, words, blocks, keys, messages) travel in the payload, never in the command word (R73). -/

namespace Sys2Proof

/-- A matrix register `M0` to `M3`, named by a 2-bit field read as a number 0 to 3 (R21, R71, R73). -/
abbrev MReg := Fin 4

/-- The multiply and fold pairs of `MMUL`, selected by `fn` (40_matrix.md R96): `GF` is 0, `INT` is 1. -/
inductive MulFn where
  | gf
  | int
  deriving DecidableEq, Repr

/-- The byte functions of `MMAP`, selected by `fn` (40_matrix.md R98): `SBOX` is 0, there is no other. -/
inductive MapFn where
  | sbox
  deriving DecidableEq, Repr

/-- The 32 commands (R74). Registers, rows and rotate amounts are 2-bit fields, of which every value is legal (R72); the
immediates `n`, `k`, `j`, `r` are unsigned numbers (R73), and `Instr.WellFormed` bounds them by their 16-bit field. -/
inductive Instr where
  -- unit 0, system commands (44_system_ops.md)
  | nop
  | sreset
  | errclr
  | sread (n : Nat)
  -- unit 1, matrix unit (40_matrix.md)
  | mzero (md : MReg)
  | mload (md : MReg)
  | mstore (ma : MReg)
  | mtrans (md ma : MReg)
  | mxor (md ma mb : MReg)
  | mmul (md ma mb : MReg) (fn : MulFn)
  | mmap (md ma : MReg) (fn : MapFn)
  | mrowrol (md : MReg) (row n : Fin 4)
  | mrowld (md : MReg) (row : Fin 4)
  | mrowst (ma : MReg) (row : Fin 4)
  -- unit 2, S-box and field arithmetic (41_sbox_gf256.md)
  | subbyte
  | gfmul
  -- unit 3, key schedule (42_key_schedule.md)
  | keyload
  | kexpand
  | kclear
  | rkread (k : Nat)
  | rc (j : Nat)
  | rotword
  | subword
  -- unit 4, round pipeline (43_round_pipeline.md)
  | blkload (md : MReg)
  | blkstore (ma : MReg)
  | subbytes (md : MReg)
  | shiftrows (md : MReg)
  | mixcolumns (md : MReg)
  | addroundkey (md : MReg) (k : Nat)
  | round (md : MReg) (r : Nat)
  | encblock (md : MReg)
  | encrypt
  deriving DecidableEq, Repr

end Sys2Proof
end

