-- ==== Sys2Proof/WellFormed.lean ====
section
/-! DEFINITION. Which commands can be spelled by a command word. Register, row, rotate and function operands are well formed
by their types; what is left to check is that an immediate fits its field (30_encoding.md R71, R73). -/

namespace Sys2Proof

/-- The immediate of a command, 0 where it uses none (R72, R73). -/
def Instr.imm : Instr → Nat
  | .sread n => n
  | .rkread k => k
  | .rc j => j
  | .addroundkey _ k => k
  | .round _ r => r
  | .nop | .sreset | .errclr | .mzero _ | .mload _ | .mstore _ | .mtrans _ _ | .mxor _ _ _ | .mmul _ _ _ _ | .mmap _ _ _
  | .mrowrol _ _ _ | .mrowld _ _ | .mrowst _ _ | .subbyte | .gfmul | .keyload | .kexpand | .kclear | .rotword | .subword
  | .blkload _ | .blkstore _ | .subbytes _ | .shiftrows _ | .mixcolumns _ | .encblock _ | .encrypt => 0

/-- A command is well formed when its immediate is a number 0 to 65535, "the 16 bits `cw[15:0]` read as an unsigned number"
(R73). Whether the number is a legal index (R61) is a check of the command's own meaning, not of its spelling. -/
abbrev Instr.WellFormed (i : Instr) : Prop := i.imm < 2 ^ Config.immBits

end Sys2Proof
end

