-- ==== Sys2Proof/Decode.lean ====
section
/-! DEFINITION. From command words to commands and back (30_encoding.md R70 to R76; 20_memory.md R58). There is one format,
C, and one table, `opcodeTable`, whose rows carry every column of R74 the decoder needs. `decode` is total: every one of the
2^32 words either matches exactly one row or is rejected by name (R75); `encode` spells a command by the field formula of R71.
-/

namespace Sys2Proof

/-! ### The fields of format C (R71) -/

/-- The six fields of a command word (R71). -/
structure Fields where
  opc : Nat
  md : Fin 4
  ma : Fin 4
  mb : Fin 4
  fn : Fin 4
  imm : Nat
  deriving DecidableEq, Repr

/-- The bit slice `v[hi:lo]` as a natural number (R10). -/
def bitSlice (v : CommandWord) (hi lo : Nat) : Nat := v.toNat / 2 ^ lo % 2 ^ (hi - lo + 1)

/-- A 2-bit field at bits `lo + 1 : lo`, read as a number 0 to 3. -/
def twoBits (v : CommandWord) (lo : Nat) : Fin 4 := Fin.ofNat 4 (bitSlice v (lo + 1) lo)

/-- The fields of a command word at the bit positions of R71. -/
def fieldsOf (cw : CommandWord) : Fields :=
  { opc := bitSlice cw 31 24
    md := twoBits cw 22
    ma := twoBits cw 20
    mb := twoBits cw 18
    fn := twoBits cw 16
    imm := bitSlice cw 15 0 }

/-- `cw = opc*2^24 + md*2^22 + ma*2^20 + mb*2^18 + fn*2^16 + imm` (R71). -/
def commandWord (f : Fields) : CommandWord :=
  BitVec.ofNat 32
    (2 ^ 24 * f.opc + 2 ^ 22 * f.md.val + 2 ^ 20 * f.ma.val + 2 ^ 18 * f.mb.val + 2 ^ 16 * f.fn.val + f.imm)

/-! ### The opcode map (R74) -/

/-- What a row does with the `fn` field: leaves it unused, selects one of the first `legal` functions (the others are
reserved, R75), or takes it as the rotate amount of `MROWROL`, every value legal. -/
inductive FnUse where
  | unused
  | selects (legal : Nat)
  | amount
  deriving DecidableEq, Repr

/-- One row of R74. `matchBits` and `mask` are the columns "match" and "mask"; `build` is the command the row's fields
spell. -/
structure OpRow where
  opc : Nat
  mnemonic : String
  usesMd : Bool
  usesMa : Bool
  usesMb : Bool
  fnUse : FnUse
  usesImm : Bool
  matchBits : CommandWord
  mask : CommandWord
  build : Fields → Instr

/-- The function pair a legal `fn` of `MMUL` names: `GF` = 0, `INT` = 1 (R96). -/
def mulFnOf (fn : Fin 4) : MulFn := if fn = 0 then .gf else .int

/-- R74, the rows of unit 0, system. Columns: opc, mnemonic, uses md, ma, mb, use of fn, uses imm, match, mask, command. -/
def rowsSystem : List OpRow :=
  [
   ⟨0x00, "NOP", false, false, false, .unused, false, 0x00000000, 0xFFFFFFFF, fun _ => .nop⟩,
   ⟨0x01, "SRESET", false, false, false, .unused, false, 0x01000000, 0xFFFFFFFF, fun _ => .sreset⟩,
   ⟨0x02, "ERRCLR", false, false, false, .unused, false, 0x02000000, 0xFFFFFFFF, fun _ => .errclr⟩,
   ⟨0x03, "SREAD", false, false, false, .unused, true, 0x03000000, 0xFFFF0000, fun f => .sread f.imm⟩]

/-- R74, the rows of unit 1, matrix unit. Columns: opc, mnemonic, uses md, ma, mb, use of fn, uses imm, match, mask, command. -/
def rowsMatrix : List OpRow :=
  [
   ⟨0x10, "MZERO", true, false, false, .unused, false, 0x10000000, 0xFF3FFFFF, fun f => .mzero f.md⟩,
   ⟨0x11, "MLOAD", true, false, false, .unused, false, 0x11000000, 0xFF3FFFFF, fun f => .mload f.md⟩,
   ⟨0x12, "MSTORE", false, true, false, .unused, false, 0x12000000, 0xFFCFFFFF, fun f => .mstore f.ma⟩,
   ⟨0x13, "MTRANS", true, true, false, .unused, false, 0x13000000, 0xFF0FFFFF, fun f => .mtrans f.md f.ma⟩,
   ⟨0x14, "MXOR", true, true, true, .unused, false, 0x14000000, 0xFF03FFFF, fun f => .mxor f.md f.ma f.mb⟩,
   ⟨0x15, "MMUL", true, true, true, .selects 2, false, 0x15000000, 0xFF02FFFF, fun f => .mmul f.md f.ma f.mb (mulFnOf f.fn)⟩,
   ⟨0x16, "MMAP", true, true, false, .selects 1, false, 0x16000000, 0xFF0FFFFF, fun f => .mmap f.md f.ma .sbox⟩,
   ⟨0x17, "MROWROL", true, false, true, .amount, false, 0x17000000, 0xFF30FFFF, fun f => .mrowrol f.md f.mb f.fn⟩,
   ⟨0x18, "MROWLD", true, false, true, .unused, false, 0x18000000, 0xFF33FFFF, fun f => .mrowld f.md f.mb⟩,
   ⟨0x19, "MROWST", false, true, true, .unused, false, 0x19000000, 0xFFC3FFFF, fun f => .mrowst f.ma f.mb⟩]

/-- R74, the rows of unit 2, S-box and field arithmetic. Columns: opc, mnemonic, uses md, ma, mb, use of fn, uses imm, match, mask, command. -/
def rowsSbox : List OpRow :=
  [
   ⟨0x20, "SUBBYTE", false, false, false, .unused, false, 0x20000000, 0xFFFFFFFF, fun _ => .subbyte⟩,
   ⟨0x21, "GFMUL", false, false, false, .unused, false, 0x21000000, 0xFFFFFFFF, fun _ => .gfmul⟩]

/-- R74, the rows of unit 3, key schedule. Columns: opc, mnemonic, uses md, ma, mb, use of fn, uses imm, match, mask, command. -/
def rowsKey : List OpRow :=
  [
   ⟨0x30, "KEYLOAD", false, false, false, .unused, false, 0x30000000, 0xFFFFFFFF, fun _ => .keyload⟩,
   ⟨0x31, "KEXPAND", false, false, false, .unused, false, 0x31000000, 0xFFFFFFFF, fun _ => .kexpand⟩,
   ⟨0x32, "KCLEAR", false, false, false, .unused, false, 0x32000000, 0xFFFFFFFF, fun _ => .kclear⟩,
   ⟨0x33, "RKREAD", false, false, false, .unused, true, 0x33000000, 0xFFFF0000, fun f => .rkread f.imm⟩,
   ⟨0x34, "RC", false, false, false, .unused, true, 0x34000000, 0xFFFF0000, fun f => .rc f.imm⟩,
   ⟨0x35, "ROTWORD", false, false, false, .unused, false, 0x35000000, 0xFFFFFFFF, fun _ => .rotword⟩,
   ⟨0x36, "SUBWORD", false, false, false, .unused, false, 0x36000000, 0xFFFFFFFF, fun _ => .subword⟩]

/-- R74, the rows of unit 4, round pipeline. Columns: opc, mnemonic, uses md, ma, mb, use of fn, uses imm, match, mask, command. -/
def rowsRound : List OpRow :=
  [
   ⟨0x40, "BLKLOAD", true, false, false, .unused, false, 0x40000000, 0xFF3FFFFF, fun f => .blkload f.md⟩,
   ⟨0x41, "BLKSTORE", false, true, false, .unused, false, 0x41000000, 0xFFCFFFFF, fun f => .blkstore f.ma⟩,
   ⟨0x42, "SUBBYTES", true, false, false, .unused, false, 0x42000000, 0xFF3FFFFF, fun f => .subbytes f.md⟩,
   ⟨0x43, "SHIFTROWS", true, false, false, .unused, false, 0x43000000, 0xFF3FFFFF, fun f => .shiftrows f.md⟩,
   ⟨0x44, "MIXCOLUMNS", true, false, false, .unused, false, 0x44000000, 0xFF3FFFFF, fun f => .mixcolumns f.md⟩,
   ⟨0x45, "ADDROUNDKEY", true, false, false, .unused, true, 0x45000000, 0xFF3F0000, fun f => .addroundkey f.md f.imm⟩,
   ⟨0x46, "ROUND", true, false, false, .unused, true, 0x46000000, 0xFF3F0000, fun f => .round f.md f.imm⟩,
   ⟨0x47, "ENCBLOCK", true, false, false, .unused, false, 0x47000000, 0xFF3FFFFF, fun f => .encblock f.md⟩,
   ⟨0x48, "ENCRYPT", false, false, false, .unused, false, 0x48000000, 0xFFFFFFFF, fun _ => .encrypt⟩]

/-- The opcode map, 32 rows (R74). -/
def opcodeTable : List OpRow := rowsSystem ++ rowsMatrix ++ rowsSbox ++ rowsKey ++ rowsRound

/-! ### Decoding -/

/-- Why a word spells no command, or a byte sequence holds no command word. Each of the first three is a case of R75 and
raises `IllegalCommand` when the host presents the word; `truncated` is about the byte form of R58 only. The names are the
model's own (log entry 9). -/
inductive DecodeReject where
  /-- `opc` is not in the table. -/
  | noSuchOpcode
  /-- A non-zero bit in a field the command does not use (R72). -/
  | unusedFieldNonZero
  /-- `fn` is 2 or 3 in `MMUL`, or 1, 2 or 3 in `MMAP`. -/
  | reservedFunction
  /-- Fewer than four bytes. -/
  | truncated
  deriving DecidableEq, Repr

/-- `fn` holds a value the row allows; an unused field must be zero (R72, R75). -/
def OpRow.fnLegal (row : OpRow) (fn : Fin 4) : Bool :=
  match row.fnUse with
  | .unused => fn == 0
  | .selects legal => decide (fn.val < legal)
  | .amount => true

/-- Every field the row does not use, `fn` apart, is zero (R72). -/
def OpRow.unusedZero (row : OpRow) (f : Fields) : Bool :=
  (row.usesMd || f.md == 0) && (row.usesMa || f.ma == 0) && (row.usesMb || f.mb == 0) && (row.usesImm || f.imm == 0)

/-- What the row makes of a word whose `opc` is the row's. -/
def OpRow.read (row : OpRow) (f : Fields) : Except DecodeReject Instr :=
  if row.unusedZero f then
    if row.fnLegal f.fn then .ok (row.build f)
    else if row.fnUse = .unused then .error .unusedFieldNonZero
    else .error .reservedFunction
  else .error .unusedFieldNonZero

/-- The command six field values spell: the row with that `opc`, if its other columns allow the fields. -/
def decodeFields (f : Fields) : Except DecodeReject Instr :=
  match opcodeTable.find? (fun row => row.opc == f.opc) with
  | some row => row.read f
  | none => .error .noSuchOpcode

/-- The decoder (R74, R75): total, the same in every state (R76), and never looking at the payload (R70). -/
def decode (cw : CommandWord) : Except DecodeReject Instr := decodeFields (fieldsOf cw)

/-! ### Encoding -/

/-- The function select a pair has (R96). -/
def MulFn.code : MulFn → Fin 4
  | .gf => 0
  | .int => 1

/-- The function select a byte function has (R98). -/
def MapFn.code : MapFn → Fin 4
  | .sbox => 0

/-- The field values that spell a command: its opcode and operands from R74, every unused field zero (R72). -/
def Instr.fields : Instr → Fields
  | .nop => ⟨0x00, 0, 0, 0, 0, 0⟩
  | .sreset => ⟨0x01, 0, 0, 0, 0, 0⟩
  | .errclr => ⟨0x02, 0, 0, 0, 0, 0⟩
  | .sread n => ⟨0x03, 0, 0, 0, 0, n⟩
  | .mzero md => ⟨0x10, md, 0, 0, 0, 0⟩
  | .mload md => ⟨0x11, md, 0, 0, 0, 0⟩
  | .mstore ma => ⟨0x12, 0, ma, 0, 0, 0⟩
  | .mtrans md ma => ⟨0x13, md, ma, 0, 0, 0⟩
  | .mxor md ma mb => ⟨0x14, md, ma, mb, 0, 0⟩
  | .mmul md ma mb fn => ⟨0x15, md, ma, mb, fn.code, 0⟩
  | .mmap md ma fn => ⟨0x16, md, ma, 0, fn.code, 0⟩
  | .mrowrol md row n => ⟨0x17, md, 0, row, n, 0⟩
  | .mrowld md row => ⟨0x18, md, 0, row, 0, 0⟩
  | .mrowst ma row => ⟨0x19, 0, ma, row, 0, 0⟩
  | .subbyte => ⟨0x20, 0, 0, 0, 0, 0⟩
  | .gfmul => ⟨0x21, 0, 0, 0, 0, 0⟩
  | .keyload => ⟨0x30, 0, 0, 0, 0, 0⟩
  | .kexpand => ⟨0x31, 0, 0, 0, 0, 0⟩
  | .kclear => ⟨0x32, 0, 0, 0, 0, 0⟩
  | .rkread k => ⟨0x33, 0, 0, 0, 0, k⟩
  | .rc j => ⟨0x34, 0, 0, 0, 0, j⟩
  | .rotword => ⟨0x35, 0, 0, 0, 0, 0⟩
  | .subword => ⟨0x36, 0, 0, 0, 0, 0⟩
  | .blkload md => ⟨0x40, md, 0, 0, 0, 0⟩
  | .blkstore ma => ⟨0x41, 0, ma, 0, 0, 0⟩
  | .subbytes md => ⟨0x42, md, 0, 0, 0, 0⟩
  | .shiftrows md => ⟨0x43, md, 0, 0, 0, 0⟩
  | .mixcolumns md => ⟨0x44, md, 0, 0, 0, 0⟩
  | .addroundkey md k => ⟨0x45, md, 0, 0, 0, k⟩
  | .round md r => ⟨0x46, md, 0, 0, 0, r⟩
  | .encblock md => ⟨0x47, md, 0, 0, 0, 0⟩
  | .encrypt => ⟨0x48, 0, 0, 0, 0, 0⟩

/-- The command word of a well-formed command. -/
def encode (i : Instr) : CommandWord := commandWord i.fields

/-! ### Numbers on the byte channels (R58): most significant byte first -/

/-- A 32-bit number as 4 bytes, most significant at offset 0 (R58, R204). -/
def be32 (v : BitVec 32) : List Byte :=
  [BitVec.ofNat 8 (v.toNat / 2 ^ 24), BitVec.ofNat 8 (v.toNat / 2 ^ 16), BitVec.ofNat 8 (v.toNat / 2 ^ 8),
   BitVec.ofNat 8 v.toNat]

/-- The 32-bit number four bytes spell in that order. -/
def ofBe32 (b0 b1 b2 b3 : Byte) : BitVec 32 :=
  BitVec.ofNat 32 (2 ^ 24 * b0.toNat + 2 ^ 16 * b1.toNat + 2 ^ 8 * b2.toNat + b3.toNat)

/-- A command as bytes: the opcode byte comes first, and the payload follows the fourth byte (R58). -/
def commandBytes (cw : CommandWord) (payload : List Byte) : List Byte := be32 cw ++ payload

/-- The command word and the payload that a byte sequence carries; how its length is conveyed is the transport's (R58). -/
def splitCommandBytes : List Byte → Except DecodeReject (CommandWord × List Byte)
  | b0 :: b1 :: b2 :: b3 :: payload => .ok (ofBe32 b0 b1 b2 b3, payload)
  | _ => .error .truncated

/-- The command that the bytes spell, with the rest of the bytes. -/
def decodeBytes (bytes : List Byte) : Except DecodeReject (Instr × List Byte) :=
  match splitCommandBytes bytes with
  | .error e => .error e
  | .ok (cw, rest) =>
    match decode cw with
    | .ok i => .ok (i, rest)
    | .error e => .error e

/-- The command the decoder reads from an instruction whose bits are `w`, numbered as the opcode table numbers them: the
table's one word is the 32-bit command word, bit 31 the most significant (R71). The word is laid out in the byte order of
R58 and given to the decoder; bits from `nbits` up are zero. -/
def decodeTableWord (nbits w : Nat) : Option Instr :=
  if nbits ≤ 32 then
    match decodeBytes (be32 (BitVec.ofNat 32 (w % 2 ^ nbits))) with
    | .ok (i, _) => some i
    | .error _ => none
  else none

end Sys2Proof
end

