-- ==== Sys2Proof/Machine/State.lean ====
section
/-! DEFINITION. Everything the core holds (10_state.md R20) as plain data, the two byte channels and the host's side of the
command channel (20_memory.md R50; 30_encoding.md R70), the errors a command can end with (60_exceptions.md R211), and the
state right after reset (R33, R240). The hardware has no memory and no address map (R50), so there is no list of memory
cells here: its stores are the registers `m`, `keybuf` and `w`. -/

namespace Sys2Proof.Machine

/-- The errors of R211, with what the error registers record of each: the offending length of the three length errors, and
the shape an `InvalidLength` expected. "No other error exists." -/
inductive CmdError where
  /-- Code 1, `KEYLOAD` with `plen` not 16, 24 or 32 (R212). -/
  | unsupportedKeyLength (len : Nat)
  /-- Code 2, `ENCRYPT` with `plen % 16 != 0` (R213). -/
  | invalidBlockLength (len : Nat)
  /-- Code 3, a flat byte sequence whose length is not `rows * cols` of what it is loaded into (R214). -/
  | invalidLength (len rows cols : Nat)
  /-- Code 4, `RC` with `j = 0` (R215). -/
  | rconIndexZero
  /-- Code 5, no row of the opcode map matches, or a command that takes no payload was given one (R75, R216). -/
  | illegalCommand
  /-- Code 6, a command needs a key or a schedule that is not there (R216). -/
  | keyNotReady
  /-- Code 7, an immediate names a round-key block, round or control register that does not exist (R216). -/
  | indexRange
  deriving DecidableEq, Repr

/-- A response: an 8-bit status code, `0x00` being `OK`, and a byte sequence (R70, R77). -/
structure Response where
  code : BitVec 8
  payload : List Byte
  deriving DecidableEq, Repr

/-- What the host does next. -/
inductive HostEvent where
  /-- Present the command `(cw, payload)` (R70). -/
  | command (cw : CommandWord) (payload : List Byte)
  /-- Apply reset while the core is idle (R240, R241). -/
  | reset
  /-- Present a command and apply reset while it is executing: "abandons that command" (R241). -/
  | commandCutByReset (cw : CommandWord) (payload : List Byte)
  deriving DecidableEq, Repr

/-- The state of one core and of the channel to its host.

The first eleven fields are "the complete architectural state of one core" (R20); `NK` and `NR` are functions of `klen` (R24)
and are no fields. The last three are the channel: `payload` is the command payload of the command being executed and
`response` the response channel (R50), `host` is the list of the host's further actions, oldest first, which "belong to the
host" (R32). -/
structure State where
  /-- `M[0]` to `M[3]`, the matrix registers (R21). -/
  m : Vector Block 4
  /-- `KEYBUF[0..31]`, the raw key in offsets 0 to `KLEN-1` (R24). -/
  keybuf : Vector Byte 32
  /-- `KLEN`, 8 bits: the key length in bytes, 0 when no key is held (R24). -/
  klen : BitVec 8
  /-- `W[0..59]`, the round-key word store (R25). -/
  w : Vector Word 60
  /-- `KEY_OK`: a valid key is in `KEYBUF` (R27). -/
  keyOk : Bool
  /-- `RK_OK`: `W` holds the schedule of the key in `KEYBUF` (R27). -/
  rkOk : Bool
  /-- `ERR`, sticky: some command has failed since the last `ERRCLR`, `SRESET` or reset (R27). -/
  err : Bool
  /-- `ERRCODE`, 4 bits: the code of the most recent failing command (R28). -/
  errCode : BitVec 4
  /-- `ELEN`, 32 bits: the offending length of the most recent failing command, or 0 (R28). -/
  elen : BitVec 32
  /-- `EROWS`, 8 bits: the `rows` of the most recent `InvalidLength`, else 0 (R28). -/
  erows : BitVec 8
  /-- `ECOLS`, 8 bits: the `cols` of the most recent `InvalidLength`, else 0 (R28). -/
  ecols : BitVec 8
  /-- The command payload channel (R50): the bytes that came with the command being executed, empty between commands. -/
  payload : List Byte
  /-- The response channel (R50): the response of the most recent command, none before the first one after reset. -/
  response : Option Response
  /-- What the host does next, oldest first (R62); no part of the core. -/
  host : List HostEvent
  deriving DecidableEq, Repr

/-- A fault would be a stop of the machine. There is none: a failing command answers with its error and the core goes on
(R218, R221), and there is "no state in which the core stops accepting commands" (R222). Nothing raises one; that is safe,
since the spec gives every state and every command word an outcome (R75). -/
inductive Fault where
  deriving DecidableEq, Repr

/-- A refusal is a command without a meaning in this model. -/
inductive Refusal where
  /-- Raised only by an arm of `exec` whose command has no meaning yet; no arm does so now. Safe: the machine stops. -/
  | notModelled (mnemonic : String)
  deriving DecidableEq, Repr

/-- The outcome of a command or a step. -/
abbrev Result := Host.Outcome State Fault Refusal

/-- The state right after reset, every value from R33: all bytes and words zero, no key, no schedule, no error. Before its
first command the core has given no response (R240) and no payload is on the channel; the host has not acted yet. -/
def State.reset : State :=
  { m := Vector.replicate 4 (Vector.replicate 4 (Vector.replicate 4 0))
    keybuf := Vector.replicate 32 0
    klen := 0
    w := Vector.replicate 60 wordZero
    keyOk := false
    rkOk := false
    err := false
    errCode := 0
    elen := 0
    erows := 0
    ecols := 0
    payload := []
    response := none
    host := [] }

end Sys2Proof.Machine
end

