-- ==== Sys2Proof/Machine/Matrix.lean ====
section
/-! DEFINITION. The matrix functions of 40_matrix.md R90 to R100, for matrices of every shape, and the two byte orders of a
matrix (20_memory.md R53, R54). All are pure and total; the commands apply them to the 4x4 registers. -/

namespace Sys2Proof.Machine

/-- The matrix with the byte `f r c` at row `r`, column `c` (R90). -/
def matOfFn {m n : Nat} (f : Fin m → Fin n → Byte) : Mat m n := Vector.ofFn fun r => Vector.ofFn fun c => f r c

/-- `new()`: the `m x n` matrix of zeros (R91). -/
def matNew (m n : Nat) : Mat m n := matOfFn fun _ _ => 0

/-! ### Byte orders -/

/-- `from_rm(b, m, n)[r][c] = b[n*r + c]`, the row-major (physical) order (R53), for `b` of length `m * n`. -/
def fromRm (b : List Byte) (m n : Nat) : Mat m n := matOfFn fun r c => b.getD (n * r.val + c.val) 0

/-- `flat(A)`, row after row: `flat(A)[n*r + c] = A[r][c]` (R53, R100). -/
def flat {m n : Nat} (A : Mat m n) : List Byte := A.toList.flatMap Vector.toList

/-- `from_wire(b)[r][c] = b[r + 4*c]`, the wire (column-major) order of a block of 16 bytes (R54). -/
def fromWire (b : List Byte) : Block := matOfFn fun r c => b.getD (r.val + 4 * c.val) 0

/-- `wire(S)[r + 4*c] = S[r][c]` (R54): column after column. -/
def wire (S : Block) : List Byte :=
  (List.finRange 4).flatMap fun c => (List.finRange 4).map fun r => S[r][c]

/-- `from(array)`: the matrix with the given rows; it cannot fail (R92). -/
def matFrom {m n : Nat} (rows : Vector (Vector Byte n) m) : Mat m n := rows

/-- `try_from(flat bytes)`: succeeds only if `len == rows*cols`, otherwise fails with the exact triple (R92). -/
def matTryFrom (b : List Byte) (m n : Nat) : Except CmdError (Mat m n) :=
  if b.length = m * n then .ok (fromRm b m n) else .error (.invalidLength b.length m n)

/-- The two lowercase hexadecimal digits of a byte. -/
def hexByte (b : Byte) : String :=
  String.ofList [Nat.digitChar (b.toNat / 16), Nat.digitChar (b.toNat % 16)]

/-- Display: the flattened bytes as lowercase hexadecimal, one string a byte; the source gives no separator between bytes,
so none is put there (R100). -/
def matDisplay {m n : Nat} (A : Mat m n) : List String := (flat A).map hexByte

/-! ### Whole-matrix functions -/

/-- `transposed(A)[c][r] = A[r][c]` (R93). -/
def transposed {m n : Nat} (A : Mat m n) : Mat n m := matOfFn fun c r => A[r][c]

/-- `mat_xor(A, B)[r][c] = A[r][c] XOR B[r][c]` (R94); a mismatch of shapes is a type error. -/
def matXor {m n : Nat} (A B : Mat m n) : Mat m n := matOfFn fun r c => A[r][c] ^^^ B[r][c]

/-- The fold of R95: left to right, seeded with the first product; `0x00` when there is none. -/
def foldProducts (addFn : Byte → Byte → Byte) : List Byte → Byte
  | [] => 0
  | p :: ps => ps.foldl addFn p

/-- `mat_mul(A, B, mul_fn, add_fn)`: row by column, the products folded in increasing `t` (R95). -/
def matMul {m k n : Nat} (A : Mat m k) (B : Mat k n) (mulFn addFn : Byte → Byte → Byte) : Mat m n :=
  matOfFn fun i j => foldProducts addFn (List.ofFn fun t : Fin k => mulFn A[i][t] B[t][j])

/-- `mul_fn` of the pairs of R96: `gf_mul`, or multiplication modulo 256. -/
def mulFnOp : MulFn → Byte → Byte → Byte
  | .gf => gfMul
  | .int => fun a b => BitVec.ofNat 8 (a.toNat * b.toNat)

/-- `add_fn` of the pairs of R96: XOR, or addition modulo 256. -/
def addFnOp : MulFn → Byte → Byte → Byte
  | .gf => fun a b => a ^^^ b
  | .int => fun a b => BitVec.ofNat 8 (a.toNat + b.toNat)

/-- The byte functions of R98. -/
def mapFnOp : MapFn → Byte → Byte
  | .sbox => subByte

/-- `mat_map(A, f)[r][c] = f(A[r][c])` (R97). -/
def matMap {m n : Nat} (A : Mat m n) (f : Byte → Byte) : Mat m n := matOfFn fun r c => f A[r][c]

/-! ### Rows (R99) -/

/-- `row_get(A, i)`. -/
def rowGet {m n : Nat} (A : Mat m n) (i : Fin m) : Vector Byte n := A[i]

/-- `row_set(A, i, v)`: row `i` replaced, all other rows unchanged. -/
def rowSet {m n : Nat} (A : Mat m n) (i : Fin m) (v : Vector Byte n) : Mat m n := A.set i.val v

/-- `row_rotl(v, s)[c] = v[(c + s) mod n]`, a cyclic left rotation by `s` positions. -/
def rowRotl {n : Nat} (v : Vector Byte n) (s : Nat) : Vector Byte n :=
  Vector.ofFn fun c => v[(c.val + s) % n]'(Nat.mod_lt _ c.pos)

end Sys2Proof.Machine
end

