-- ==== Sys2Proof/Machine/Schedule.lean ====
section
/-! DEFINITION. The key schedule expander as pure functions (42_key_schedule.md R140 to R149). -/

namespace Sys2Proof.Machine

/-- `rc` by iteration: the recurrence of R141 applied `n` times to `a`. Each turn doubles in GF(2^8), as `xtime` does; the
test stands outside the recursion so that every turn works on a byte already computed. -/
def rcLoop : Nat → Byte → Byte
  | 0, a => a
  | n + 1, a =>
    if a.toNat < 0x80 then rcLoop n (BitVec.ofNat 8 (2 * a.toNat))
    else rcLoop n (BitVec.ofNat 8 ((2 * a.toNat) ^^^ 0x11B))

/-- The round-constant byte: `rc(0)` fails, `rc(1) = 0x01`, `rc(n) = xtime(rc(n-1))` (R141). -/
def rc : Nat → Option Byte
  | 0 => none
  | n + 1 => some (rcLoop n 1)

/-- `Rcon(j)`, the word `[rc(j), 0, 0, 0]`; it fails where `rc(j)` does (R143). -/
def rcon (j : Nat) : Option Word :=
  match rc j with
  | some b => some (wordOf b 0 0 0)
  | none => none

/-- `RotWord`, the left rotation by one position: `[a0, a1, a2, a3]` to `[a1, a2, a3, a0]` (R144). -/
def rotWord (w : Word) : Word := rowRotl w 1

/-- `SubWord`, `sub_byte` of each of the four bytes, positions kept (R145). -/
def subWord (w : Word) : Word := Vector.ofFn fun o => subByte w[o]

/-- `key_params`: the number of key words and of rounds of a legal key length; every other length fails (R146). -/
def keyParams (klen : Nat) : Option (Nat × Nat) :=
  if klen = 16 then some (4, 10)
  else if klen = 24 then some (6, 12)
  else if klen = 32 then some (8, 14)
  else none

/-- `word[i]` of R147, from the words before it. The words of index below `nk` are the key's (R52). `Rcon` has a value
wherever the schedule asks for one: `i / nk` is at least 1 there (R147), so `wordZero` is never taken (log entry 8). -/
def scheduleWord (key : List Byte) (nk : Nat) (ws : List Word) (i : Nat) : Word :=
  if i < nk then Vector.ofFn fun o => key.getD (4 * i + o.val) 0
  else
    let before := ws.getD (i - 1) wordZero
    let back := ws.getD (i - nk) wordZero
    if i % nk = 0 then wordXor (wordXor back (subWord (rotWord before))) ((rcon (i / nk)).getD wordZero)
    else if 6 < nk ∧ i % nk = 4 then wordXor back (subWord before)
    else wordXor back before

/-- `word[0 .. total]`, produced in increasing index (R147, R254). -/
def scheduleWords (key : List Byte) (nk : Nat) : Nat → List Word
  | 0 => []
  | i + 1 =>
    let ws := scheduleWords key nk i
    ws ++ [scheduleWord key nk ws i]

/-- The words regrouped four at a time: `block[k] = word[4k] ‖ word[4k+1] ‖ word[4k+2] ‖ word[4k+3]`, 16 bytes (R148). -/
def wordsToBlocks (ws : List Word) (count : Nat) : List (List Byte) :=
  (List.range count).map fun k => (List.range 4).flatMap fun j => (ws.getD (4 * k + j) wordZero).toList

/-- `expand(key)`: `n_rounds + 1` blocks of 16 bytes (R148); `4*(n_rounds+1)` words by 90_conflicts.md C1. -/
def expand (key : List Byte) : Except CmdError (List (List Byte)) :=
  match keyParams key.length with
  | some (nk, nr) => .ok (wordsToBlocks (scheduleWords key nk (4 * (nr + 1))) (nr + 1))
  | none => .error (.unsupportedKeyLength key.length)

/-- The contents of `W` for a key: the schedule words in `W[0 .. 4*(nr+1)]`, the zero word above (R25, R151). -/
def scheduleStore (key : List Byte) (nk nr : Nat) : Vector Word 60 :=
  let ws := scheduleWords key nk (4 * (nr + 1))
  Vector.ofFn fun i => ws.getD i.val wordZero

end Sys2Proof.Machine
end

