-- ==== Sys2Proof/Machine/Pipeline.lean ====
section
/-! DEFINITION. The round pipeline as pure functions (43_round_pipeline.md R170 to R176, R185). A state `S` is a block with
`S[r][c]` the byte in row `r`, column `c`; the schedule is given as `rk`, the round-key matrix of each index. -/

namespace Sys2Proof.Machine

/-- The row-major bytes of the MixColumns matrix (R173). -/
def mixBytes : List Byte := [0x02, 0x03, 0x01, 0x01, 0x01, 0x02, 0x03, 0x01, 0x01, 0x01, 0x02, 0x03, 0x03, 0x01, 0x01, 0x02]

/-- `MIX`, the fixed matrix `[[2,3,1,1],[1,2,3,1],[1,1,2,3],[3,1,1,2]]` (R173). -/
def mix : Block := fromRm mixBytes 4 4

/-- SubBytes (R171). -/
def subBytes (S : Block) : Block := matMap S subByte

/-- ShiftRows: row `r` rotated left by `r` positions (R172). -/
def shiftRows (S : Block) : Block := Vector.ofFn fun r : Fin 4 => rowRotl S[r] r.val

/-- MixColumns: `mat_mul(MIX, S, gf_mul, XOR)`, the fixed matrix on the left (R173; 90_conflicts.md C6). -/
def mixColumns (S : Block) : Block := matMul mix S (mulFnOp .gf) (addFnOp .gf)

/-- AddRoundKey: XOR with the round-key matrix (R174). -/
def addRoundKey (S K : Block) : Block := matXor S K

/-- One round (R175): round 0 is AddRoundKey alone, the final round omits MixColumns. -/
def roundFn (rk : Nat → Block) (nRounds r : Nat) (S : Block) : Block :=
  if r = 0 then addRoundKey S (rk 0)
  else if r < nRounds then addRoundKey (mixColumns (shiftRows (subBytes S))) (rk r)
  else addRoundKey (shiftRows (subBytes S)) (rk nRounds)

/-- One block: rounds `0` to `n_rounds` in order, `n_rounds + 1` steps (R176). -/
def encryptBlock (rk : Nat → Block) (nRounds : Nat) (S : Block) : Block :=
  (List.range (nRounds + 1)).foldl (fun S r => roundFn rk nRounds r S) S

/-- Block `i` of a message, bytes `16i` to `16i + 15` (R57). -/
def messageBlock (msg : List Byte) (i : Nat) : List Byte := (msg.drop (16 * i)).take 16

/-- The ciphertext of block `i`: loaded in wire order, encrypted, stored in wire order (R57, R185). -/
def cipherBlock (rk : Nat → Block) (nRounds : Nat) (msg : List Byte) (i : Nat) : List Byte :=
  wire (encryptBlock rk nRounds (fromWire (messageBlock msg i)))

/-- The ciphertext of a message of `len/16` blocks, concatenated in input order (R57, R185). -/
def encryptMessage (rk : Nat → Block) (nRounds : Nat) (msg : List Byte) : List Byte :=
  (List.range (msg.length / 16)).flatMap (cipherBlock rk nRounds msg)

/-- The same ciphertext by an implementation that finishes the blocks in the order `order` (any lanes, R64): it keeps the
finished blocks under their index and emits them in input order. A block that `order` leaves out is missing. -/
def encryptInOrder (rk : Nat → Block) (nRounds : Nat) (msg : List Byte) (order : List Nat) : List Byte :=
  let done := order.map fun i => (i, cipherBlock rk nRounds msg i)
  (List.range (msg.length / 16)).flatMap fun i => (done.lookup i).getD []

/-- `RKmat(k)` of a list of round-key blocks (R56). -/
def blocksRk (blocks : List (List Byte)) (k : Nat) : Block := fromWire (blocks.getD k [])

/-- `encrypt(plaintext, key)`, the source's one external operation (R185). The key is expanded, and so validated, first. -/
def encrypt (plaintext key : List Byte) : Except CmdError (List Byte) :=
  match expand key with
  | .error e => .error e
  | .ok blocks =>
    if plaintext.length % 16 ≠ 0 then .error (.invalidBlockLength plaintext.length)
    else .ok (encryptMessage (blocksRk blocks) (blocks.length - 1) plaintext)

end Sys2Proof.Machine
end

