-- ==== Sys2Proof/Machine/Ops.lean ====
section
/-! DEFINITION. The named operations over the stores, the error registers and the channels: reading and writing a matrix
register, reading the round-key store, erasing key state, ending a command with a reply or with an error, and the host's side
of the command channel. Every command is written over these. -/

namespace Sys2Proof.Machine

/-! ### Matrix registers (10_state.md R21, R50) -/

/-- `M[i]`. Every register holds a value from reset on, the zero matrix until written (R34). -/
def State.readM (s : State) (i : MReg) : Block := s.m[i]

/-- `M[i] <- v`: the register is written as a whole (R252). -/
def State.writeM (s : State) (i : MReg) (v : Block) : State := { s with m := s.m.set i.val v }

/-! ### Key state (10_state.md R24 to R26) -/

/-- The held key, `KEYBUF[0 .. KLEN]` in the order the host sent it (R24). -/
def State.keyBytes (s : State) : List Byte := s.keybuf.toList.take s.klen.toNat

/-- `NK = KLEN / 4`, derived at every read (R24). -/
def State.nk (s : State) : Nat := s.klen.toNat / 4

/-- `NR`, derived from `KLEN` at every read: 0, 10, 12 or 14 (R24). For the lengths `KLEN` never holds it is 0 (log entry
7). -/
def State.nr (s : State) : Nat :=
  match keyParams s.klen.toNat with
  | some (_, nRounds) => nRounds
  | none => 0

/-- `W[i]`; no command asks for an index above 59 (R61), where this reads the zero word (log entry 8). -/
def State.wordAt (s : State) (i : Nat) : Word := if h : i < 60 then s.w[i] else wordZero

/-- `RK[k] = W[4k] ‖ W[4k+1] ‖ W[4k+2] ‖ W[4k+3]`, 16 bytes, a view of `W` (R25, R56). -/
def State.roundKey (s : State) (k : Nat) : List Byte := (List.range 4).flatMap fun j => (s.wordAt (4 * k + j)).toList

/-- `RKmat(k) = from_wire(RK[k])` (R56). -/
def State.roundKeyMat (s : State) (k : Nat) : Block := fromWire (s.roundKey k)

/-- `RK_OK <- 0 ; W[0..59] <- all zero words`: the schedule is discarded (R150, R152). -/
def State.dropSchedule (s : State) : State := { s with w := Vector.replicate 60 wordZero, rkOk := false }

/-- `KEYBUF[0..31] <- all 0x00 ; KLEN <- 0 ; KEY_OK <- 0`: no key is held (R150, R152). -/
def State.dropKey (s : State) : State := { s with keybuf := Vector.replicate 32 0, klen := 0, keyOk := false }

/-- `KEYBUF[0 .. plen] <- key ; KEYBUF[plen .. 32] <- all 0x00 ; KLEN <- plen ; KEY_OK <- 1` (R150). -/
def State.holdKey (s : State) (key : List Byte) : State :=
  { s with keybuf := Vector.ofFn fun i => key.getD i.val 0, klen := BitVec.ofNat 8 key.length, keyOk := true }

/-- `W <-` the schedule of the held key, zero words above it; `RK_OK <- 1` (R151). -/
def State.fillSchedule (s : State) : State := { s with w := scheduleStore s.keyBytes s.nk s.nr, rkOk := true }

/-! ### Ending a command (00_scope.md R13; 60_exceptions.md R220) -/

/-- The code of an error (R77, R211). -/
def CmdError.code : CmdError → Nat
  | .unsupportedKeyLength _ => 1
  | .invalidBlockLength _ => 2
  | .invalidLength _ _ _ => 3
  | .rconIndexZero => 4
  | .illegalCommand => 5
  | .keyNotReady => 6
  | .indexRange => 7

/-- What `ELEN` records of an error: the offending length, saturated at `0xFFFFFFFF`, for the three length errors, else 0
(R28, R220). -/
def CmdError.elen : CmdError → Nat
  | .unsupportedKeyLength len | .invalidBlockLength len | .invalidLength len _ _ => min len 0xFFFFFFFF
  | .rconIndexZero | .illegalCommand | .keyNotReady | .indexRange => 0

/-- What `EROWS` records of an error (R220). -/
def CmdError.rows : CmdError → Nat
  | .invalidLength _ rows _ => rows
  | .unsupportedKeyLength _ | .invalidBlockLength _ | .rconIndexZero | .illegalCommand | .keyNotReady | .indexRange => 0

/-- What `ECOLS` records of an error (R220). -/
def CmdError.cols : CmdError → Nat
  | .invalidLength _ _ cols => cols
  | .unsupportedKeyLength _ | .invalidBlockLength _ | .rconIndexZero | .illegalCommand | .keyNotReady | .indexRange => 0

/-- The response to a command that succeeded: code `OK` and the reply bytes (R13, R70). -/
def okResponse (bytes : List Byte) : Response := ⟨0, bytes⟩

/-- The response to a failing command: the error's code and an empty payload (R220). -/
def errorResponse (e : CmdError) : Response := ⟨BitVec.ofNat 8 e.code, []⟩

/-- The state after `reply(bytes)`: the response is given, the command's payload is gone with the command (log entry 2), and
nothing else is written; in particular a successful command does not touch the error registers (R220). -/
def State.replied (s : State) (bytes : List Byte) : State := { s with payload := [], response := some (okResponse bytes) }

/-- The state after `raise e`, this hardware's only kind of exception (R220): the five error registers are rewritten, the
response is the error's code with an empty payload, and nothing else is written. There is no program counter, mode or mask to
save or change. -/
def State.raised (s : State) (e : CmdError) : State :=
  { s with
    err := true
    errCode := BitVec.ofNat 4 e.code
    elen := BitVec.ofNat 32 e.elen
    erows := BitVec.ofNat 8 e.rows
    ecols := BitVec.ofNat 8 e.cols
    payload := []
    response := some (errorResponse e) }

/-- `reply(bytes)` ends the command with status `OK` (R13). -/
def reply (bytes : List Byte) (s : State) : Result := .next (s.replied bytes)

/-- `raise e` ends the command with that error; the core is ready for the next command (R13, R220). -/
def raise (e : CmdError) (s : State) : Result := .next (s.raised e)

/-- `ERR <- 0 ; ERRCODE <- 0 ; ELEN <- 0 ; EROWS <- 0 ; ECOLS <- 0`, the counterpart of a return from an exception: "there is
no return instruction because there is nothing to return from" (R203, R221). -/
def State.clearErrors (s : State) : State := { s with err := false, errCode := 0, elen := 0, erows := 0, ecols := 0 }

/-! ### Reset and the host's side of the channel -/

/-- The architectural state of R33 in place of the present one; the payload and the host's further actions are not the
core's and stay (R32, R202). -/
def State.clearAll (s : State) : State :=
  { State.reset with payload := s.payload, response := s.response, host := s.host }

/-- The core after an applied reset, with the host's further actions `rest`: the reset state, and no reply (R241). -/
def State.afterReset (rest : List HostEvent) : State := { State.reset with host := rest }

/-- The core takes a command: its payload is on the channel, `rest` is what the host does after it (R50, R62). -/
def State.accept (s : State) (payload : List Byte) (rest : List HostEvent) : State :=
  { s with payload := payload, host := rest }

/-- The host presents a further command before everything else it was to do. -/
def State.presentFirst (s : State) (cw : CommandWord) (payload : List Byte) : State :=
  { s with host := .command cw payload :: s.host }

end Sys2Proof.Machine
end

