-- ==== Sys2Proof/Machine/Operands.lean ====
section
/-! DEFINITION. The operand forms of the commands that are not fields of the command word: the payload and its length rules
(20_memory.md R59; 30_encoding.md R75). A length check reads `plen` only and is made before the command computes anything. A
payload that passes is "never split, padded, truncated or partly processed" (R59). -/

namespace Sys2Proof.Machine

/-- `plen`, the length of the payload that came with the command (R13). -/
def State.plen (s : State) : Nat := s.payload.length

/-- A command that takes no payload: with one it raises `IllegalCommand` (R75, class 1 of R219). -/
def noPayload (s : State) (body : Result) : Result := if s.plen = 0 then body else raise .illegalCommand s

/-- A payload loaded into a `rows x cols` shape: any other length than `rows * cols` raises `InvalidLength` with the exact
triple (R59, R214). -/
def shapedPayload (rows cols : Nat) (s : State) (body : Result) : Result :=
  if s.plen = rows * cols then body else raise (.invalidLength s.plen rows cols) s

/-- A payload that is a message: any length but a multiple of 16 raises `InvalidBlockLength` (R59, R213). -/
def messagePayload (s : State) (body : Result) : Result :=
  if s.plen % 16 = 0 then body else raise (.invalidBlockLength s.plen) s

/-- The payload byte at an offset, for an offset below `plen` (R13). -/
def State.payloadByte (s : State) (o : Nat) : Byte := s.payload.getD o 0

/-- The four payload bytes of a word or of a matrix row, offset order (R51, R110, R155). -/
def State.payloadWord (s : State) : Word := Vector.ofFn fun o => s.payloadByte o.val

end Sys2Proof.Machine
end

