-- ==== Sys2Proof/Machine/Flags.lean ====
section
/-! DEFINITION. The three status flags as preconditions, the index ranges, and the control and status registers that `SREAD`
computes from them (10_state.md R27, R28; 20_memory.md R61; 44_system_ops.md R204). The hardware has no arithmetic condition
codes: no carry, zero, overflow or sign flag exists (R27). -/

namespace Sys2Proof.Machine

/-- A command that needs a key: `KeyNotReady` when `KEY_OK = 0` (R27, R211). -/
def needKey (s : State) (body : Result) : Result := if s.keyOk then body else raise .keyNotReady s

/-- A command that reads the schedule: `KeyNotReady` when `RK_OK = 0` (R27, R211). -/
def needSchedule (s : State) (body : Result) : Result := if s.rkOk then body else raise .keyNotReady s

/-- An index from 0 to `top`: above it raises `IndexRange`; no index wraps or is clamped (R61). -/
def indexUpTo (top i : Nat) (s : State) (body : Result) : Result := if i ≤ top then body else raise .indexRange s

/-- A flag as the number 0 or 1. -/
def bit (b : Bool) : Nat := if b then 1 else 0

/-- `STATUS`, register 0: `KEY_OK + 2*RK_OK + 4*ERR + 16*ERRCODE` (R28, R204). -/
def State.csrStatus (s : State) : BitVec 32 :=
  BitVec.ofNat 32 (bit s.keyOk + 2 * bit s.rkOk + 4 * bit s.err + 16 * s.errCode.toNat)

/-- `KEYINFO`, register 1: `KLEN + 256*NK + 4096*NR` (R28, R204). -/
def State.csrKeyinfo (s : State) : BitVec 32 := BitVec.ofNat 32 (s.klen.toNat + 256 * s.nk + 4096 * s.nr)

/-- `EDIM`, register 3: `EROWS + 256*ECOLS` (R28, R204). -/
def State.csrEdim (s : State) : BitVec 32 := BitVec.ofNat 32 (s.erows.toNat + 256 * s.ecols.toNat)

/-- The control and status register of a number; 4 and above name none (R28). -/
def State.csr (s : State) : Nat → Option (BitVec 32)
  | 0 => some s.csrStatus
  | 1 => some s.csrKeyinfo
  | 2 => some s.elen
  | 3 => some s.csrEdim
  | _ + 4 => none

end Sys2Proof.Machine
end

