-- ==== Sys2Proof/Machine/KeyCmds.lean ====
section
/-! DEFINITION. The key schedule commands (42_key_schedule.md R150 to R156). -/

namespace Sys2Proof.Machine

/-- `KEYLOAD : payload` (R150). Any earlier schedule is discarded first; a key of an unsupported length leaves no key either,
the one failing command that changes state besides the error registers (60_exceptions.md R217). It does not expand. -/
def execKeyload (s : State) : Result :=
  match keyParams s.plen with
  | some _ => reply [] (s.dropSchedule.holdKey s.payload)
  | none => raise (.unsupportedKeyLength s.plen) s.dropSchedule.dropKey

/-- `KEXPAND` (R151): the schedule of the held key into `W`, zero words above it; `RK_OK` set. -/
def execKexpand (s : State) : Result := noPayload s (needKey s (reply [] s.fillSchedule))

/-- `KCLEAR` (R152): key and schedule erased, legal in every state. -/
def execKclear (s : State) : Result := noPayload s (reply [] s.dropKey.dropSchedule)

/-- `RKREAD k` (R153): `RK[k]`, 16 bytes in word order. -/
def execRkread (k : Nat) (s : State) : Result :=
  noPayload s (needSchedule s (indexUpTo s.nr k s (reply (s.roundKey k) s)))

/-- `RC j` (R154): the round-constant byte; `rc(0)` has no value and raises `RconIndexZero`. -/
def execRc (j : Nat) (s : State) : Result :=
  noPayload s <|
    match rc j with
    | some b => reply [b] s
    | none => raise .rconIndexZero s

/-- `ROTWORD : payload` (R155). -/
def execRotword (s : State) : Result := shapedPayload 1 4 s (reply (rotWord s.payloadWord).toList s)

/-- `SUBWORD : payload` (R156). -/
def execSubword (s : State) : Result := shapedPayload 1 4 s (reply (subWord s.payloadWord).toList s)

end Sys2Proof.Machine
end

