-- ==== Sys2Proof/Machine/MatrixCmds.lean ====
section
/-! DEFINITION. The matrix commands (40_matrix.md R102 to R111). A command that names a register as source and destination
computes its result from the values held when it began and then writes the register as a whole (70_reset_and_hazards.md
R252). -/

namespace Sys2Proof.Machine

/-- `MZERO md` (R102): the source's `new()` at 4x4. -/
def execMzero (md : MReg) (s : State) : Result := noPayload s (reply [] (s.writeM md (matNew 4 4)))

/-- `MLOAD md : payload` (R103): 16 bytes in row-major order. -/
def execMload (md : MReg) (s : State) : Result :=
  shapedPayload 4 4 s (reply [] (s.writeM md (fromRm s.payload 4 4)))

/-- `MSTORE ma` (R104): `flat(M[ma])`. -/
def execMstore (ma : MReg) (s : State) : Result := noPayload s (reply (flat (s.readM ma)) s)

/-- `MTRANS md, ma` (R105). -/
def execMtrans (md ma : MReg) (s : State) : Result := noPayload s (reply [] (s.writeM md (transposed (s.readM ma))))

/-- `MXOR md, ma, mb` (R106). -/
def execMxor (md ma mb : MReg) (s : State) : Result :=
  noPayload s (reply [] (s.writeM md (matXor (s.readM ma) (s.readM mb))))

/-- `MMUL md, ma, mb, fn` (R107): `ma` is the left operand; `INT` products and sums wrap modulo 256. -/
def execMmul (md ma mb : MReg) (fn : MulFn) (s : State) : Result :=
  noPayload s (reply [] (s.writeM md (matMul (s.readM ma) (s.readM mb) (mulFnOp fn) (addFnOp fn))))

/-- `MMAP md, ma, fn` (R108). -/
def execMmap (md ma : MReg) (fn : MapFn) (s : State) : Result :=
  noPayload s (reply [] (s.writeM md (matMap (s.readM ma) (mapFnOp fn))))

/-- `MROWROL md, row, n` (R109): row `row` rotated left by `n` positions in place. -/
def execMrowrol (md : MReg) (row n : Fin 4) (s : State) : Result :=
  noPayload s (reply [] (s.writeM md (rowSet (s.readM md) row (rowRotl (rowGet (s.readM md) row) n.val))))

/-- `MROWLD md, row : payload` (R110): 4 bytes into one row. -/
def execMrowld (md : MReg) (row : Fin 4) (s : State) : Result :=
  shapedPayload 1 4 s (reply [] (s.writeM md (rowSet (s.readM md) row s.payloadWord)))

/-- `MROWST ma, row` (R111): the 4 bytes of one row. -/
def execMrowst (ma : MReg) (row : Fin 4) (s : State) : Result :=
  noPayload s (reply (rowGet (s.readM ma) row).toList s)

end Sys2Proof.Machine
end

