-- ==== Sys2Proof/Machine/RoundCmds.lean ====
section
/-! DEFINITION. The round pipeline commands (43_round_pipeline.md R177 to R184, R186). The register of an in-place command
shows only the final value (10_state.md R23). -/

namespace Sys2Proof.Machine

/-- `BLKLOAD md : payload` (R177): 16 bytes in wire order. -/
def execBlkload (md : MReg) (s : State) : Result :=
  shapedPayload 4 4 s (reply [] (s.writeM md (fromWire s.payload)))

/-- `BLKSTORE ma` (R178): `wire(M[ma])`. -/
def execBlkstore (ma : MReg) (s : State) : Result := noPayload s (reply (wire (s.readM ma)) s)

/-- `SUBBYTES md` (R179). -/
def execSubbytes (md : MReg) (s : State) : Result := noPayload s (reply [] (s.writeM md (subBytes (s.readM md))))

/-- `SHIFTROWS md` (R180). -/
def execShiftrows (md : MReg) (s : State) : Result := noPayload s (reply [] (s.writeM md (shiftRows (s.readM md))))

/-- `MIXCOLUMNS md` (R181). -/
def execMixcolumns (md : MReg) (s : State) : Result := noPayload s (reply [] (s.writeM md (mixColumns (s.readM md))))

/-- `ADDROUNDKEY md, k` (R182). -/
def execAddroundkey (md : MReg) (k : Nat) (s : State) : Result :=
  noPayload s (needSchedule s (indexUpTo s.nr k s
    (reply [] (s.writeM md (addRoundKey (s.readM md) (s.roundKeyMat k))))))

/-- `ROUND md, r` (R183): which of the three forms runs depends on `r` and on `NR`. -/
def execRound (md : MReg) (r : Nat) (s : State) : Result :=
  noPayload s (needSchedule s (indexUpTo s.nr r s
    (reply [] (s.writeM md (roundFn s.roundKeyMat s.nr r (s.readM md))))))

/-- `ENCBLOCK md` (R184): rounds 0, 1, ..., `NR` in order. -/
def execEncblock (md : MReg) (s : State) : Result :=
  noPayload s (needSchedule s (reply [] (s.writeM md (encryptBlock s.roundKeyMat s.nr (s.readM md)))))

/-- `ENCRYPT : payload` (R186): the length check before the key check, both before any transform; no register is written. -/
def execEncrypt (s : State) : Result :=
  messagePayload s (needSchedule s (reply (encryptMessage s.roundKeyMat s.nr s.payload) s))

end Sys2Proof.Machine
end

