-- ==== Sys2Proof/Machine/SboxCmds.lean ====
section
/-! DEFINITION. The S-box and field commands (41_sbox_gf256.md R130, R131): they read and write no state. -/

namespace Sys2Proof.Machine

/-- `SUBBYTE : payload` (R130): one byte in, its S-box entry out. -/
def execSubbyte (s : State) : Result := shapedPayload 1 1 s (reply [subByte (s.payloadByte 0)] s)

/-- `GFMUL : payload` (R131): two bytes in, their product out. -/
def execGfmul (s : State) : Result := shapedPayload 1 2 s (reply [gfMul (s.payloadByte 0) (s.payloadByte 1)] s)

end Sys2Proof.Machine
end

