-- ==== Sys2Proof/Machine/SystemCmds.lean ====
section
/-! DEFINITION. The system commands (44_system_ops.md R200 to R204): legal in every state, no payload. -/

namespace Sys2Proof.Machine

/-- `NOP` (R201): reads and writes nothing. -/
def execNop (s : State) : Result := noPayload s (reply [] s)

/-- `SRESET` (R202): writes every piece of state to its reset value, then replies. -/
def execSreset (s : State) : Result := noPayload s (reply [] s.clearAll)

/-- `ERRCLR` (R203): clears the five error registers and nothing else. -/
def execErrclr (s : State) : Result := noPayload s (reply [] s.clearErrors)

/-- `SREAD n` (R204): the named register as it stands before this command, 4 bytes, most significant first; `IndexRange` for
`n > 3`. -/
def execSread (n : Nat) (s : State) : Result :=
  noPayload s <|
    match s.csr n with
    | some v => reply (be32 v) s
    | none => raise .indexRange s

end Sys2Proof.Machine
end

