-- ==== Sys2Proof/Machine/Dispatch.lean ====
section
/-! DEFINITION. The dispatch: one arm per command, each one call of that command's own meaning. A model may compute every
command "as one function from the state and command to the state and response" (10_state.md R31): the payload is read from the
state's payload channel, the response is written to its response channel. -/

namespace Sys2Proof.Machine

def exec (i : Instr) (s : State) : Host.Outcome State Fault Refusal :=
  match i with
  -- system commands
  | .nop => Sys2Proof.Machine.execNop s
  | .sreset => Sys2Proof.Machine.execSreset s
  | .errclr => Sys2Proof.Machine.execErrclr s
  | .sread n => Sys2Proof.Machine.execSread n s
  -- matrix unit
  | .mzero md => Sys2Proof.Machine.execMzero md s
  | .mload md => Sys2Proof.Machine.execMload md s
  | .mstore ma => Sys2Proof.Machine.execMstore ma s
  | .mtrans md ma => Sys2Proof.Machine.execMtrans md ma s
  | .mxor md ma mb => Sys2Proof.Machine.execMxor md ma mb s
  | .mmul md ma mb fn => Sys2Proof.Machine.execMmul md ma mb fn s
  | .mmap md ma fn => Sys2Proof.Machine.execMmap md ma fn s
  | .mrowrol md row n => Sys2Proof.Machine.execMrowrol md row n s
  | .mrowld md row => Sys2Proof.Machine.execMrowld md row s
  | .mrowst ma row => Sys2Proof.Machine.execMrowst ma row s
  -- S-box and field arithmetic
  | .subbyte => Sys2Proof.Machine.execSubbyte s
  | .gfmul => Sys2Proof.Machine.execGfmul s
  -- key schedule
  | .keyload => Sys2Proof.Machine.execKeyload s
  | .kexpand => Sys2Proof.Machine.execKexpand s
  | .kclear => Sys2Proof.Machine.execKclear s
  | .rkread k => Sys2Proof.Machine.execRkread k s
  | .rc j => Sys2Proof.Machine.execRc j s
  | .rotword => Sys2Proof.Machine.execRotword s
  | .subword => Sys2Proof.Machine.execSubword s
  -- round pipeline
  | .blkload md => Sys2Proof.Machine.execBlkload md s
  | .blkstore ma => Sys2Proof.Machine.execBlkstore ma s
  | .subbytes md => Sys2Proof.Machine.execSubbytes md s
  | .shiftrows md => Sys2Proof.Machine.execShiftrows md s
  | .mixcolumns md => Sys2Proof.Machine.execMixcolumns md s
  | .addroundkey md k => Sys2Proof.Machine.execAddroundkey md k s
  | .round md r => Sys2Proof.Machine.execRound md r s
  | .encblock md => Sys2Proof.Machine.execEncblock md s
  | .encrypt => Sys2Proof.Machine.execEncrypt s

end Sys2Proof.Machine
end

