-- ==== Sys2Proof/Machine/Step.lean ====
section
/-! DEFINITION. One step of the machine. The core has no program counter and fetches nothing: "the host presents commands one
at a time; the order of execution is the order of presentation" (10_state.md R30, 20_memory.md R62). A step is one action of
the host: a command it presents runs to its response, an applied reset puts the core in the reset state. With nothing
presented the core "is idle and holds its state" (60_exceptions.md R233). -/

namespace Sys2Proof.Machine

/-- One step. A command word that spells no command raises `IllegalCommand` whatever its payload (R75). A reset gives no
reply, and a command it cuts short is abandoned (R241). -/
def step (s : State) : Host.Outcome State Fault Refusal :=
  match s.host with
  | [] => .next s
  | .command cw payload :: rest =>
    match decode cw with
    | .ok i => exec i (s.accept payload rest)
    | .error _ => raise .illegalCommand (s.accept payload rest)
  | .reset :: rest => .next (State.afterReset rest)
  | .commandCutByReset _ _ :: rest => .next (State.afterReset rest)

/-- `s` with the command word `w` presented next, its payload what is on the payload channel (nothing, between commands); the
bits from `nbits` up are zero. The very next step runs that command (log entry 1). -/
def State.withFetchWord (s : State) (nbits w : Nat) : State :=
  s.presentFirst (BitVec.ofNat 32 (w % 2 ^ nbits)) s.payload

end Sys2Proof.Machine
end

