-- ==== Sys2Proof/Machine/Macros.lean ====
section
/-! DEFINITION. What stands on top of the command set: the macros of 30_encoding.md R79, as commands the host issues one by
one, and the textual form of commands and responses (R78). The source's one external operation `encrypt` is the macro
`ENCRYPT_CALL`. -/

namespace Sys2Proof.Machine

/-! ### Issuing commands (R62, R79) -/

/-- The host presents one command and waits for its response: the step that runs it. -/
def State.issue (s : State) (i : Instr) (payload : List Byte) : Result := step (s.presentFirst (encode i) payload)

/-- A command sequence is issued in order up to the first command that fails (R79): the last state, and the responses. -/
def runMacro : List (Instr × List Byte) → State → State × List Response
  | [], s => (s, [])
  | (i, payload) :: rest, s =>
    match s.issue i payload with
    | .next t =>
      match t.response with
      | some r => if r.code = 0 then ((runMacro rest t).1, r :: (runMacro rest t).2) else (t, [r])
      | none => (t, [])
    | .fault _ => (s, [])
    | .refused _ => (s, [])

/-- A macro's response, from those of its commands in order: "the response of the first command that fails, or of its last
command" (R79). -/
def macroResponse (responses : List Response) : Option Response :=
  match responses.find? (fun r => r.code != 0) with
  | some r => some r
  | none => responses.getLast?

/-- `MMIX md`: loads the MixColumns matrix (R79). -/
def macroMmix (md : MReg) : List (Instr × List Byte) := [(.mload md, mixBytes)]

/-- `MCOPY md, ma`, with `md != ma`: XOR with the zero matrix copies (R79). -/
def macroMcopy (md ma : MReg) : List (Instr × List Byte) := [(.mzero md, []), (.mxor md md ma, [])]

/-- `MFROM md : 16 bytes`, the source's `from(array)` (R79). -/
def macroMfrom (md : MReg) (bytes : List Byte) : List (Instr × List Byte) := [(.mload md, bytes)]

/-- The first three commands of `ENCRYPT_CALL key, pt` (R79, R244). -/
def macroEncrypt (key plaintext : List Byte) : List (Instr × List Byte) :=
  [(.keyload, key), (.kexpand, []), (.encrypt, plaintext)]

/-- `ENCRYPT_CALL key, pt`: `KEYLOAD`, `KEXPAND`, `ENCRYPT` up to the first failure, then `KCLEAR` in every case (R79). The
result is the last state and the responses of the commands issued, in order. The macro's own response is `macroResponse` of
them: the failure if there is one, else that of the last command, `KCLEAR`. The ciphertext of R185 is the reply of its
`ENCRYPT` (log entry 12). -/
def encryptCall (key plaintext : List Byte) (s : State) : State × List Response :=
  let main := runMacro (macroEncrypt key plaintext) s
  let clear := runMacro [(.kclear, [])] main.1
  (clear.1, main.2 ++ clear.2)

/-! ### Textual form (R78) -/

/-- A register operand: `M0` to `M3`. -/
def regText (r : MReg) : String := "M" ++ toString r.val

/-- Operands separated by commas. -/
def operandsText (mnemonic : String) (operands : List String) : String :=
  if operands.isEmpty then mnemonic else mnemonic ++ " " ++ String.intercalate ", " operands

/-- `fn` of `MMUL` by name. -/
def mulFnText : MulFn → String
  | .gf => "GF"
  | .int => "INT"

/-- `fn` of `MMAP` by name. -/
def mapFnText : MapFn → String
  | .sbox => "SBOX"

/-- The mnemonic in upper case, then the operands in the order of R74. -/
def instrText : Instr → String
  | .nop => "NOP"
  | .sreset => "SRESET"
  | .errclr => "ERRCLR"
  | .sread n => operandsText "SREAD" [toString n]
  | .mzero md => operandsText "MZERO" [regText md]
  | .mload md => operandsText "MLOAD" [regText md]
  | .mstore ma => operandsText "MSTORE" [regText ma]
  | .mtrans md ma => operandsText "MTRANS" [regText md, regText ma]
  | .mxor md ma mb => operandsText "MXOR" [regText md, regText ma, regText mb]
  | .mmul md ma mb fn => operandsText "MMUL" [regText md, regText ma, regText mb, mulFnText fn]
  | .mmap md ma fn => operandsText "MMAP" [regText md, regText ma, mapFnText fn]
  | .mrowrol md row n => operandsText "MROWROL" [regText md, toString row.val, toString n.val]
  | .mrowld md row => operandsText "MROWLD" [regText md, toString row.val]
  | .mrowst ma row => operandsText "MROWST" [regText ma, toString row.val]
  | .subbyte => "SUBBYTE"
  | .gfmul => "GFMUL"
  | .keyload => "KEYLOAD"
  | .kexpand => "KEXPAND"
  | .kclear => "KCLEAR"
  | .rkread k => operandsText "RKREAD" [toString k]
  | .rc j => operandsText "RC" [toString j]
  | .rotword => "ROTWORD"
  | .subword => "SUBWORD"
  | .blkload md => operandsText "BLKLOAD" [regText md]
  | .blkstore ma => operandsText "BLKSTORE" [regText ma]
  | .subbytes md => operandsText "SUBBYTES" [regText md]
  | .shiftrows md => operandsText "SHIFTROWS" [regText md]
  | .mixcolumns md => operandsText "MIXCOLUMNS" [regText md]
  | .addroundkey md k => operandsText "ADDROUNDKEY" [regText md, toString k]
  | .round md r => operandsText "ROUND" [regText md, toString r]
  | .encblock md => operandsText "ENCBLOCK" [regText md]
  | .encrypt => "ENCRYPT"

/-- The payload bytes in offset order, two hexadecimal digits each, separated by spaces. -/
def bytesText (bytes : List Byte) : String := String.intercalate " " (bytes.map hexByte)

/-- A command: its text, then the payload, if any, after a colon. -/
def commandText (i : Instr) (payload : List Byte) : String :=
  if payload.isEmpty then instrText i else instrText i ++ " : " ++ bytesText payload

/-- The name of a status code (R77); codes `0x08` to `0xFF` are never produced. -/
def statusName (code : BitVec 8) : String :=
  match code.toNat with
  | 0 => "OK"
  | 1 => "UnsupportedKeyLength"
  | 2 => "InvalidBlockLength"
  | 3 => "InvalidLength"
  | 4 => "RconIndexZero"
  | 5 => "IllegalCommand"
  | 6 => "KeyNotReady"
  | 7 => "IndexRange"
  | _ => ""

/-- A response: the status name, then the reply bytes. -/
def responseText (r : Response) : String :=
  if r.payload.isEmpty then "-> " ++ statusName r.code else "-> " ++ statusName r.code ++ " " ++ bytesText r.payload

end Sys2Proof.Machine
end

