-- ==== Sys2Proof/Safety.lean ====
section
/-! DEFINITION. The terms in which claims about the core are made: the invariants that hold between commands (10_state.md
R24, R29), what a command leaves unchanged, and what its response says. -/

namespace Sys2Proof.Machine

/-! ### Invariants between commands -/

/-- The invariants of R29 (a) to (g), with R24's statement about the unused part of `KEYBUF`. -/
structure State.Inv (s : State) : Prop where
  /-- (a) `KLEN` is 0, 16, 24 or 32. -/
  klenLegal : s.klen = 0 ∨ s.klen = 16 ∨ s.klen = 24 ∨ s.klen = 32
  /-- (b) `KEY_OK = 1` if and only if `KLEN != 0`. -/
  keyOkIff : s.keyOk = true ↔ s.klen ≠ 0
  /-- (c) `RK_OK = 1` implies `KEY_OK = 1`. -/
  scheduleNeedsKey : s.rkOk = true → s.keyOk = true
  /-- (d) `RK_OK = 1` implies that `W` holds the schedule of the held key, zero words above it. -/
  scheduleHeld : s.rkOk = true → s.w = scheduleStore s.keyBytes s.nk s.nr
  /-- (e) `RK_OK = 0` implies every word of `W` is zero. -/
  noSchedule : s.rkOk = false → ∀ i : Fin 60, s.w[i] = wordZero
  /-- (f) `KEY_OK = 0` implies every byte of `KEYBUF` is zero. -/
  noKey : s.keyOk = false → ∀ i : Fin 32, s.keybuf[i] = 0
  /-- (g) `ERR = 0` implies `ERRCODE = 0`, `ELEN = 0`, `EROWS = 0`, `ECOLS = 0`. -/
  noError : s.err = false → s.errCode = 0 ∧ s.elen = 0 ∧ s.erows = 0 ∧ s.ecols = 0
  /-- Bytes of `KEYBUF` at offsets `KLEN` and above are zero (R24). -/
  unusedZero : ∀ i : Fin 32, s.klen.toNat ≤ i.val → s.keybuf[i] = 0

/-! ### Frames: what two states have in common -/

/-- Every matrix register is unchanged. -/
def SameMatrices (s t : State) : Prop := ∀ i : MReg, t.readM i = s.readM i

/-- Every matrix register but `md` is unchanged. -/
def SameMatricesBut (md : MReg) (s t : State) : Prop := ∀ i : MReg, i ≠ md → t.readM i = s.readM i

/-- `KEYBUF`, `KLEN`, `W`, `KEY_OK` and `RK_OK` are unchanged. -/
def SameKeyState (s t : State) : Prop :=
  t.keybuf = s.keybuf ∧ t.klen = s.klen ∧ t.w = s.w ∧ t.keyOk = s.keyOk ∧ t.rkOk = s.rkOk

/-- The five error registers are unchanged. -/
def SameErrors (s t : State) : Prop :=
  t.err = s.err ∧ t.errCode = s.errCode ∧ t.elen = s.elen ∧ t.erows = s.erows ∧ t.ecols = s.ecols

/-- What the host does next is unchanged. -/
def SameHost (s t : State) : Prop := t.host = s.host

/-! ### Outcomes of a command -/

/-- The command has replied `OK` with these bytes, and its payload is gone. -/
def RepliedOk (bytes : List Byte) (t : State) : Prop := t.response = some ⟨0, bytes⟩ ∧ t.payload = []

/-- The command wrote only matrix register `md` and replied `OK` without bytes. -/
def WroteOnly (md : MReg) (s t : State) : Prop :=
  SameMatricesBut md s t ∧ SameKeyState s t ∧ SameErrors s t ∧ SameHost s t ∧ RepliedOk [] t

/-- The command wrote no state of the core and replied `OK` with these bytes. -/
def RepliedOnly (bytes : List Byte) (s t : State) : Prop :=
  SameMatrices s t ∧ SameKeyState s t ∧ SameErrors s t ∧ SameHost s t ∧ RepliedOk bytes t

/-- The five error registers and the response record the error `e` (R220). -/
def RecordsError (e : CmdError) (t : State) : Prop :=
  t.err = true ∧ t.errCode.toNat = e.code ∧ t.elen.toNat = e.elen ∧ t.erows.toNat = e.rows ∧ t.ecols.toNat = e.cols ∧
  t.response = some ⟨BitVec.ofNat 8 e.code, []⟩ ∧ t.payload = []

/-- The command failed with `e` and wrote nothing but the error registers and the response (R220, R223). -/
def FailedWith (e : CmdError) (s t : State) : Prop :=
  SameMatrices s t ∧ SameKeyState s t ∧ SameHost s t ∧ RecordsError e t

/-- The opcode byte of the command's word, the "Encoding" line of its rule (R74). -/
def HasOpcode (opc : BitVec 8) (i : Instr) : Prop := (encode i).extractLsb' 24 8 = opc

/-- The commands whose row of R74 says payload 0 (R75). -/
def TakesNoPayload : Instr → Prop
  | .mload _ | .mrowld _ _ | .subbyte | .gfmul | .keyload | .rotword | .subword | .blkload _ | .encrypt => False
  | .nop | .sreset | .errclr | .sread _ | .mzero _ | .mstore _ | .mtrans _ _ | .mxor _ _ _ | .mmul _ _ _ _ | .mmap _ _ _
  | .mrowrol _ _ _ | .mrowst _ _ | .kexpand | .kclear | .rkread _ | .rc _ | .blkstore _ | .subbytes _ | .shiftrows _
  | .mixcolumns _ | .addroundkey _ _ | .round _ _ | .encblock _ => True

/-! ### The error table, by class -/

/-- The error conditions of a command in the order of R219, each with its error (R211): decode, payload length, key or
schedule, index. It is a table of conditions on the command, `plen`, `KEY_OK`, `RK_OK` and `NR` only (R210), and says nothing
of what a command does. -/
def errorCauses (s : State) : Instr → List (Bool × CmdError)
  | .nop | .sreset | .errclr | .mzero _ | .mstore _ | .mtrans _ _ | .mxor _ _ _ | .mmul _ _ _ _ | .mmap _ _ _
  | .mrowrol _ _ _ | .mrowst _ _ | .kclear | .blkstore _ | .subbytes _ | .shiftrows _ | .mixcolumns _ =>
    [(s.payload.length != 0, .illegalCommand)]
  | .sread n => [(s.payload.length != 0, .illegalCommand), (decide (3 < n), .indexRange)]
  | .mload _ | .blkload _ => [(s.payload.length != 16, .invalidLength s.payload.length 4 4)]
  | .mrowld _ _ | .rotword | .subword => [(s.payload.length != 4, .invalidLength s.payload.length 1 4)]
  | .subbyte => [(s.payload.length != 1, .invalidLength s.payload.length 1 1)]
  | .gfmul => [(s.payload.length != 2, .invalidLength s.payload.length 1 2)]
  | .keyload =>
    [(s.payload.length != 16 && s.payload.length != 24 && s.payload.length != 32,
      .unsupportedKeyLength s.payload.length)]
  | .kexpand => [(s.payload.length != 0, .illegalCommand), (!s.keyOk, .keyNotReady)]
  | .rkread k | .addroundkey _ k | .round _ k =>
    [(s.payload.length != 0, .illegalCommand), (!s.rkOk, .keyNotReady), (decide (s.nr < k), .indexRange)]
  | .encblock _ => [(s.payload.length != 0, .illegalCommand), (!s.rkOk, .keyNotReady)]
  | .rc j => [(s.payload.length != 0, .illegalCommand), (j == 0, .rconIndexZero)]
  | .encrypt =>
    [(s.payload.length % 16 != 0, .invalidBlockLength s.payload.length), (!s.rkOk, .keyNotReady)]

/-- The one error that is reported: the first whose condition holds (R219). -/
def firstError (s : State) (i : Instr) : Option CmdError := ((errorCauses s i).find? (fun c => c.1)).map (fun c => c.2)

/-- A key length the core supports (R7, R146). -/
def KeyLengthLegal (n : Nat) : Prop := n = 16 ∨ n = 24 ∨ n = 32

end Sys2Proof.Machine
end

