-- ==== Sys2Proof/Certificates/Slice0/Obligations.lean ====
section
/-! DEFINITION. The statements for the provers. Each docstring names the rules of the spec it formalises; the frames and
outcomes they use (`WroteOnly`, `RepliedOnly`, `FailedWith`, `RecordsError`) are defined in Sys2Proof/Safety.lean. -/

open Sys2Proof Sys2Proof.Machine

/-! ### Command words -/

/-- Words written out from R71 and R74 (and the table V29 of 95_test_vectors.md) decode to the commands they stand for, one
or more for each unit. Three words that R75 makes illegal are rejected; R75 gives all three the one error `IllegalCommand`, and
the three names of rejection in the last clauses (`noSuchOpcode`, `unusedFieldNonZero`, `reservedFunction`) are the model's own
(log entry 9, DESIGN CHOICE). -/
def Obligations.WordsDecodeAsTheSpecWritesThem : Prop :=
  decode 0x00000000 = .ok .nop ∧ decode 0x03000003 = .ok (.sread 3) ∧ decode 0x15840000 = .ok (.mmul 2 0 1 .gf) ∧
  decode 0x15E50000 = .ok (.mmul 3 2 1 .int) ∧ decode 0x174E0000 = .ok (.mrowrol 1 3 2) ∧
  decode 0x21000000 = .ok .gfmul ∧ decode 0x30000000 = .ok .keyload ∧ decode 0x3400000A = .ok (.rc 10) ∧
  decode 0x4500000A = .ok (.addroundkey 0 10) ∧ decode 0x46C0000E = .ok (.round 3 14) ∧
  decode 0x04000000 = .error .noSuchOpcode ∧ decode 0x10100000 = .error .unusedFieldNonZero ∧
  decode 0x15020000 = .error .reservedFunction

/-- R71, R72, R74: decoding the word of a well-formed command gives the command back, every operand at every value its field
admits. -/
def Obligations.DecodeOfEncode : Prop := ∀ i : Instr, i.WellFormed → decode (encode i) = .ok i

/-- R71, R72, R74: a word that spells a command is the word of that command and of no other, and the command is well
formed. -/
def Obligations.EncodeOfDecode : Prop :=
  ∀ (cw : CommandWord) (i : Instr), decode cw = .ok i → i.WellFormed ∧ encode i = cw

/-- R74: a word spells a row's command exactly when `cw AND mask = match`, and no two rows match the same word. -/
def Obligations.WordSpellsARowExactlyWhenItsMaskedBitsMatch : Prop :=
  (∀ cw : CommandWord, ∀ row ∈ opcodeTable, cw &&& row.mask = row.matchBits → decode cw = .ok (row.build (fieldsOf cw))) ∧
  (∀ (cw : CommandWord) (i : Instr), decode cw = .ok i →
    ∃ row ∈ opcodeTable, cw &&& row.mask = row.matchBits ∧ i = row.build (fieldsOf cw)) ∧
  opcodeTable.Pairwise (fun a b => ∀ cw : CommandWord, ¬(cw &&& a.mask = a.matchBits ∧ cw &&& b.mask = b.matchBits))

/-- R58: a command word travels most significant byte first, so the opcode byte comes first, and the payload follows the
fourth byte; the bytes give the command word and the payload back. -/
def Obligations.CommandBytesAreMostSignificantFirst : Prop :=
  ∀ (cw : CommandWord) (payload : List Byte),
    commandBytes cw payload =
      cw.extractLsb' 24 8 :: cw.extractLsb' 16 8 :: cw.extractLsb' 8 8 :: cw.extractLsb' 0 8 :: payload ∧
    splitCommandBytes (commandBytes cw payload) = .ok (cw, payload)

/-! ### Steps -/

/-- R30, R62, R70: when the host's next action is to present a command whose word spells `i`, the step is `exec i` with that
payload on the channel and the host's further actions left. Nothing else is added around `exec`. -/
def Obligations.StepRunsTheDecodedCommand : Prop :=
  ∀ (s : State) (cw : CommandWord) (payload : List Byte) (rest : List HostEvent) (i : Instr),
    s.host = .command cw payload :: rest → decode cw = .ok i →
    step s = exec i { s with payload := payload, host := rest }

/-- R30, R62, R71, R74: the host presents a command and the core runs it (R30, R62); that presentation stands at the head of a
list in the state, where `withFetchWord` puts the word of a well-formed command with the payload on the channel, so that the
very next step runs that command, is the model's choice (log entry 1, DESIGN CHOICE). And the decoder reads that command from
the table's numbering of the word (R71, R74). -/
def Obligations.FetchedWordIsRunByTheNextStep : Prop :=
  ∀ (i : Instr) (s : State), i.WellFormed →
    step (s.withFetchWord 32 (encode i).toNat) = exec i s ∧ decodeTableWord 32 (encode i).toNat = some i

/-- R75: a command word that matches no row raises `IllegalCommand` whatever its payload and changes no state but the error
registers; that covers every other `opc`, the reserved `fn` of `MMUL` and `MMAP`; and a command that takes no payload raises
it when given one. -/
def Obligations.IllegalCommandsAreRejected : Prop :=
  (∀ (s : State) (cw : CommandWord) (payload : List Byte) (rest : List HostEvent),
    s.host = .command cw payload :: rest → (∀ i, decode cw ≠ .ok i) →
    ∃ t, step s = .next t ∧ FailedWith .illegalCommand { s with host := rest } t) ∧
  (∀ cw : CommandWord, (∀ row ∈ opcodeTable, row.opc ≠ (cw.extractLsb' 24 8).toNat) → ∀ i, decode cw ≠ .ok i) ∧
  (∀ cw : CommandWord, cw.extractLsb' 24 8 = 0x15 → 2 ≤ (cw.extractLsb' 16 2).toNat → ∀ i, decode cw ≠ .ok i) ∧
  (∀ cw : CommandWord, cw.extractLsb' 24 8 = 0x16 → cw.extractLsb' 16 2 ≠ 0 → ∀ i, decode cw ≠ .ok i) ∧
  (∀ (i : Instr) (s : State), TakesNoPayload i → s.payload ≠ [] →
    ∃ t, exec i s = .next t ∧ FailedWith .illegalCommand s t)

/-- R218, R222: there is no state in which the core stops: every step of every state answers a next state. -/
def Obligations.NoStateStopsTheCore : Prop := ∀ s : State, ∃ t, step s = .next t

/-- R70, R77, R225: a presented command, legal or not, is answered by exactly one response, whose code is 0 to 7 and which
carries a payload only with code `OK`; its payload is gone and the host's further actions are left. -/
def Obligations.EveryPresentedCommandIsAnswered : Prop :=
  ∀ (s : State) (cw : CommandWord) (payload : List Byte) (rest : List HostEvent),
    s.host = .command cw payload :: rest →
    ∃ t r, step s = .next t ∧ t.response = some r ∧ r.code.toNat ≤ 7 ∧ (r.code ≠ 0 → r.payload = []) ∧
      t.payload = [] ∧ t.host = rest

/-- R217, R220, R223: a failing command sets `ERR` and records in `ERRCODE` the code it answers; it changes no matrix
register and, `KEYLOAD` apart, no key state. A successful command other than `ERRCLR` and `SRESET` leaves the error registers
alone. -/
def Obligations.FailuresArePrecise : Prop :=
  ∀ (i : Instr) (s t : State) (r : Response), exec i s = .next t → t.response = some r →
    (r.code ≠ 0 →
      t.err = true ∧ t.errCode.toNat = r.code.toNat ∧ SameMatrices s t ∧ SameHost s t ∧
      (i ≠ .keyload → SameKeyState s t)) ∧
    (r.code = 0 → i ≠ .errclr → i ≠ .sreset → SameErrors s t)

/-- R211, R219: exactly one error is reported, the first in the order decode, length, key or schedule, index, with the values
R211 records of it; a command none of whose conditions holds replies `OK`. -/
def Obligations.ReportedErrorIsTheFirstInOrder : Prop :=
  (∀ (s : State) (cw : CommandWord) (payload : List Byte) (rest : List HostEvent),
    s.host = .command cw payload :: rest → (∀ i, decode cw ≠ .ok i) →
    ∃ t, step s = .next t ∧ RecordsError .illegalCommand t) ∧
  (∀ (i : Instr) (s : State) (e : CmdError), firstError s i = some e → ∃ t, exec i s = .next t ∧ RecordsError e t) ∧
  (∀ (i : Instr) (s : State), firstError s i = none → ∃ t bytes, exec i s = .next t ∧ RepliedOk bytes t)

/-- R210: whether a command fails, and with which code, never depends on data: two states that agree on the payload length,
`KEY_OK`, `RK_OK` and `NR` get the same code, whatever the payload bytes, registers, key and schedule are. -/
def Obligations.FailureNeverDependsOnData : Prop :=
  ∀ (i : Instr) (s₁ s₂ t₁ t₂ : State) (r₁ r₂ : Response),
    s₁.payload.length = s₂.payload.length → s₁.keyOk = s₂.keyOk → s₁.rkOk = s₂.rkOk → s₁.nr = s₂.nr →
    exec i s₁ = .next t₁ → exec i s₂ = .next t₂ → t₁.response = some r₁ → t₂.response = some r₂ → r₁.code = r₂.code

/-! ### Reset and invariants -/

/-- R33: after reset, and after `SRESET` in any state, every piece of state is zero. -/
def Obligations.ResetLeavesEverythingZero : Prop :=
  ∀ t : State, (t = State.reset ∨ ∃ s : State, s.payload = [] ∧ exec .sreset s = .next t) →
    (∀ (i : MReg) (r c : Fin 4), (t.readM i)[r][c] = 0) ∧ (∀ i : Fin 32, t.keybuf[i] = 0) ∧ t.klen = 0 ∧ t.nk = 0 ∧
    t.nr = 0 ∧ (∀ (i : Fin 60) (o : Fin 4), t.w[i][o] = 0) ∧ t.keyOk = false ∧ t.rkOk = false ∧ t.err = false ∧
    t.errCode = 0 ∧ t.elen = 0 ∧ t.erows = 0 ∧ t.ecols = 0

/-- R233, R240, R241: an applied reset, idle or in the middle of a command, gives the reset state and no reply, with the host's
further actions left; with nothing presented the core holds its state. That the core and the host's list of actions are stepped
together is the model's choice (log entries 1 and 4). -/
def Obligations.AppliedResetAbandonsTheCommand : Prop :=
  (∀ (s : State) (rest : List HostEvent), s.host = .reset :: rest →
    step s = .next { State.reset with host := rest }) ∧
  (∀ (s : State) (cw : CommandWord) (payload : List Byte) (rest : List HostEvent),
    s.host = .commandCutByReset cw payload :: rest → step s = .next { State.reset with host := rest }) ∧
  (∀ s : State, s.host = [] → step s = .next s)

/-- R29, R33: the reset state meets the invariants that hold between commands. -/
def Obligations.ResetMeetsTheInvariants : Prop := State.reset.Inv

/-- R24, R29: every step keeps the invariants, from every state that meets them. -/
def Obligations.EveryStepKeepsTheInvariants : Prop :=
  ∀ s t : State, s.Inv → step s = .next t → t.Inv

/-- R29 (d), (h): where a schedule is held, the round-key blocks `RK[0 .. NR+1]` are `expand` of the held key: `NR + 1` blocks
of 16 bytes each. -/
def Obligations.HeldScheduleIsTheExpandedKey : Prop :=
  ∀ s : State, s.Inv → s.rkOk = true →
    expand s.keyBytes = .ok ((List.range (s.nr + 1)).map s.roundKey) ∧ ∀ k ≤ s.nr, (s.roundKey k).length = 16

/-! ### System commands -/

/-- R201: `NOP` writes nothing and replies `OK`. -/
def Obligations.NopWritesNothing : Prop :=
  ∀ s : State, s.payload = [] → ∃ t, exec .nop s = .next t ∧ RepliedOnly [] s t

/-- R202: `SRESET` gives the reset state in every state, and an `OK` reply. The opcode is `0x01`. -/
def Obligations.SresetGivesTheResetState : Prop :=
  HasOpcode 0x01 .sreset ∧
  ∀ s : State, s.payload = [] →
    exec .sreset s = .next { State.reset with host := s.host, response := some ⟨0, []⟩ }

/-- R203: `ERRCLR` clears the five error registers and nothing else. The opcode is `0x02`. -/
def Obligations.ErrclrClearsOnlyTheErrorRegisters : Prop :=
  HasOpcode 0x02 .errclr ∧
  ∀ s : State, s.payload = [] → ∃ t, exec .errclr s = .next t ∧
    t.err = false ∧ t.errCode = 0 ∧ t.elen = 0 ∧ t.erows = 0 ∧ t.ecols = 0 ∧
    SameMatrices s t ∧ SameKeyState s t ∧ SameHost s t ∧ RepliedOk [] t

/-- R28, R204: `SREAD n` replies the named register, most significant byte first, with the fields at the bits of R28 and every
reserved bit zero; `n > 3` raises `IndexRange`. -/
def Obligations.SreadRepliesTheNamedRegister : Prop :=
  ∀ (n : Nat) (s : State), s.payload = [] →
    (n ≤ 3 → ∃ (t : State) (v : BitVec 32), exec (.sread n) s = .next t ∧
      RepliedOnly [v.extractLsb' 24 8, v.extractLsb' 16 8, v.extractLsb' 8 8, v.extractLsb' 0 8] s t ∧
      (n = 0 → v.extractLsb' 0 1 = BitVec.ofBool s.keyOk ∧ v.extractLsb' 1 1 = BitVec.ofBool s.rkOk ∧
        v.extractLsb' 2 1 = BitVec.ofBool s.err ∧ v.extractLsb' 3 1 = 0 ∧ v.extractLsb' 4 4 = s.errCode ∧
        v.extractLsb' 8 24 = 0) ∧
      (n = 1 → s.klen = 0 → v = 0x00000000) ∧ (n = 1 → s.klen = 16 → v = 0x0000A410) ∧
      (n = 1 → s.klen = 24 → v = 0x0000C618) ∧ (n = 1 → s.klen = 32 → v = 0x0000E820) ∧
      (n = 2 → v = s.elen) ∧
      (n = 3 → v.extractLsb' 0 8 = s.erows ∧ v.extractLsb' 8 8 = s.ecols ∧ v.extractLsb' 16 16 = 0)) ∧
    (3 < n → ∃ t, exec (.sread n) s = .next t ∧ FailedWith .indexRange s t)

/-! ### Matrix commands -/

/-- R102: `MZERO md` makes every byte of `M[md]` zero. The opcode is `0x10`. -/
def Obligations.MzeroWritesZeros : Prop :=
  (∀ md : MReg, HasOpcode 0x10 (.mzero md)) ∧
  ∀ (md : MReg) (s : State), s.payload = [] →
    ∃ t, exec (.mzero md) s = .next t ∧ WroteOnly md s t ∧ ∀ r c : Fin 4, (t.readM md)[r][c] = 0

/-- R103: `MLOAD md` places 16 payload bytes row by row, `M[md][r][c] = payload[4*r + c]`; any other length raises
`InvalidLength` with the exact triple and leaves the register. The opcode is `0x11`. -/
def Obligations.MloadPlacesBytesRowMajor : Prop :=
  (∀ md : MReg, HasOpcode 0x11 (.mload md)) ∧
  ∀ (md : MReg) (s : State),
    (s.payload.length = 16 → ∃ t, exec (.mload md) s = .next t ∧ WroteOnly md s t ∧
      ∀ r c : Fin 4, s.payload[4 * r.val + c.val]? = some (t.readM md)[r][c]) ∧
    (s.payload.length ≠ 16 →
      ∃ t, exec (.mload md) s = .next t ∧ FailedWith (.invalidLength s.payload.length 4 4) s t)

/-- R104: `MSTORE ma` replies 16 bytes, byte `4*r + c` being `M[ma][r][c]`, and writes nothing. The opcode is `0x12`. -/
def Obligations.MstoreRepliesRowMajorBytes : Prop :=
  (∀ ma : MReg, HasOpcode 0x12 (.mstore ma)) ∧
  ∀ (ma : MReg) (s : State), s.payload = [] →
    ∃ t bytes, exec (.mstore ma) s = .next t ∧ RepliedOnly bytes s t ∧ bytes.length = 16 ∧
      ∀ r c : Fin 4, bytes[4 * r.val + c.val]? = some (s.readM ma)[r][c]

/-- R105: `MTRANS md, ma` writes the transpose of the old `M[ma]`, `md = ma` included. The opcode is `0x13`. -/
def Obligations.MtransWritesTheTranspose : Prop :=
  (∀ md ma : MReg, HasOpcode 0x13 (.mtrans md ma)) ∧
  ∀ (md ma : MReg) (s : State), s.payload = [] →
    ∃ t, exec (.mtrans md ma) s = .next t ∧ WroteOnly md s t ∧
      ∀ r c : Fin 4, (t.readM md)[c][r] = (s.readM ma)[r][c]

/-- R106: `MXOR md, ma, mb` writes the bytewise XOR of the old sources, whichever registers coincide. The opcode is `0x14`. -/
def Obligations.MxorWritesTheXor : Prop :=
  (∀ md ma mb : MReg, HasOpcode 0x14 (.mxor md ma mb)) ∧
  ∀ (md ma mb : MReg) (s : State), s.payload = [] →
    ∃ t, exec (.mxor md ma mb) s = .next t ∧ WroteOnly md s t ∧
      ∀ r c : Fin 4, (t.readM md)[r][c] = (s.readM ma)[r][c] ^^^ (s.readM mb)[r][c]

/-- R96, R107: `MMUL md, ma, mb, fn` writes row by column products of the old `M[ma]` (left) and `M[mb]`, with GF products
folded by XOR, or with products and sums modulo 256, whichever registers coincide. -/
def Obligations.MmulWritesTheProduct : Prop :=
  ∀ (md ma mb : MReg) (s : State), s.payload = [] →
    (∃ t, exec (.mmul md ma mb .gf) s = .next t ∧ WroteOnly md s t ∧
      ∀ i j : Fin 4, (t.readM md)[i][j] =
        gfMul (s.readM ma)[i][0] (s.readM mb)[0][j] ^^^ gfMul (s.readM ma)[i][1] (s.readM mb)[1][j] ^^^
        gfMul (s.readM ma)[i][2] (s.readM mb)[2][j] ^^^ gfMul (s.readM ma)[i][3] (s.readM mb)[3][j]) ∧
    (∃ t, exec (.mmul md ma mb .int) s = .next t ∧ WroteOnly md s t ∧
      ∀ i j : Fin 4, (t.readM md)[i][j].toNat =
        ((s.readM ma)[i][0].toNat * (s.readM mb)[0][j].toNat + (s.readM ma)[i][1].toNat * (s.readM mb)[1][j].toNat +
         (s.readM ma)[i][2].toNat * (s.readM mb)[2][j].toNat + (s.readM ma)[i][3].toNat * (s.readM mb)[3][j].toNat) % 256)

/-- R108: `MMAP md, ma, SBOX` writes the S-box entry of every byte of the old `M[ma]`. -/
def Obligations.MmapSubstitutesEveryByte : Prop :=
  ∀ (md ma : MReg) (fn : MapFn) (s : State), s.payload = [] →
    ∃ t, exec (.mmap md ma fn) s = .next t ∧ WroteOnly md s t ∧
      ∀ r c : Fin 4, (t.readM md)[r][c] = subByte (s.readM ma)[r][c]

/-- R109: `MROWROL md, row, n` rotates one row left by `n`, `new[row][c] = old[row][(c + n) mod 4]`, and leaves the other
rows. The opcode is `0x17`. -/
def Obligations.MrowrolRotatesOneRow : Prop :=
  (∀ (md : MReg) (row n : Fin 4), HasOpcode 0x17 (.mrowrol md row n)) ∧
  ∀ (md : MReg) (row n : Fin 4) (s : State), s.payload = [] →
    ∃ t, exec (.mrowrol md row n) s = .next t ∧ WroteOnly md s t ∧
      (∀ c : Fin 4, (t.readM md)[row][c] = (s.readM md)[row][c + n]) ∧
      ∀ r : Fin 4, r ≠ row → (t.readM md)[r] = (s.readM md)[r]

/-- R110: `MROWLD md, row` writes 4 payload bytes into one row and leaves the other rows; any other length raises
`InvalidLength{plen, 1, 4}` and leaves the register. The opcode is `0x18`. -/
def Obligations.MrowldReplacesOneRow : Prop :=
  (∀ (md : MReg) (row : Fin 4), HasOpcode 0x18 (.mrowld md row)) ∧
  ∀ (md : MReg) (row : Fin 4) (s : State),
    (s.payload.length = 4 → ∃ t, exec (.mrowld md row) s = .next t ∧ WroteOnly md s t ∧
      (∀ c : Fin 4, s.payload[c.val]? = some (t.readM md)[row][c]) ∧
      ∀ r : Fin 4, r ≠ row → (t.readM md)[r] = (s.readM md)[r]) ∧
    (s.payload.length ≠ 4 →
      ∃ t, exec (.mrowld md row) s = .next t ∧ FailedWith (.invalidLength s.payload.length 1 4) s t)

/-- R111: `MROWST ma, row` replies the 4 bytes of one row and writes nothing. The opcode is `0x19`. -/
def Obligations.MrowstRepliesOneRow : Prop :=
  (∀ (ma : MReg) (row : Fin 4), HasOpcode 0x19 (.mrowst ma row)) ∧
  ∀ (ma : MReg) (row : Fin 4) (s : State), s.payload = [] →
    ∃ t bytes, exec (.mrowst ma row) s = .next t ∧ RepliedOnly bytes s t ∧ bytes.length = 4 ∧
      ∀ c : Fin 4, bytes[c.val]? = some (s.readM ma)[row][c]

/-! ### S-box and field commands -/

/-- R130: `SUBBYTE` replies the S-box entry of its one byte; any other length raises `InvalidLength{plen, 1, 1}`. The opcode
is `0x20`. -/
def Obligations.SubbyteRepliesTheEntry : Prop :=
  HasOpcode 0x20 .subbyte ∧
  ∀ s : State,
    (∀ a : Byte, s.payload = [a] → ∃ t, exec .subbyte s = .next t ∧ RepliedOnly [subByte a] s t) ∧
    (s.payload.length ≠ 1 → ∃ t, exec .subbyte s = .next t ∧ FailedWith (.invalidLength s.payload.length 1 1) s t)

/-- R120, R131: `GFMUL` replies the product of its two bytes, as polynomials reduced modulo `0x11B`; any other length raises
`InvalidLength{plen, 1, 2}`. The opcode is `0x21`. -/
def Obligations.GfmulRepliesTheProduct : Prop :=
  HasOpcode 0x21 .gfmul ∧
  ∀ s : State,
    (∀ a b : Byte, s.payload = [a, b] → ∃ t, exec .gfmul s = .next t ∧ RepliedOnly [polyProduct a b] s t) ∧
    (s.payload.length ≠ 2 → ∃ t, exec .gfmul s = .next t ∧ FailedWith (.invalidLength s.payload.length 1 2) s t)

/-! ### Key schedule commands -/

/-- R150: `KEYLOAD` holds a key of 16, 24 or 32 bytes and drops any schedule; any other length raises `UnsupportedKeyLength`
and leaves neither key nor schedule. The opcode is `0x30`. -/
def Obligations.KeyloadHoldsTheKeyOrNone : Prop :=
  HasOpcode 0x30 .keyload ∧
  ∀ s : State,
    (KeyLengthLegal s.payload.length → ∃ t, exec .keyload s = .next t ∧
      (∀ i : Fin 32, i.val < s.payload.length → s.payload[i.val]? = some t.keybuf[i]) ∧
      (∀ i : Fin 32, s.payload.length ≤ i.val → t.keybuf[i] = 0) ∧
      t.klen.toNat = s.payload.length ∧ t.keyOk = true ∧ t.rkOk = false ∧ (∀ i : Fin 60, t.w[i] = wordZero) ∧
      SameMatrices s t ∧ SameErrors s t ∧ SameHost s t ∧ RepliedOk [] t) ∧
    (¬KeyLengthLegal s.payload.length → ∃ t, exec .keyload s = .next t ∧
      RecordsError (.unsupportedKeyLength s.payload.length) t ∧
      (∀ i : Fin 32, t.keybuf[i] = 0) ∧ t.klen = 0 ∧ t.keyOk = false ∧ t.rkOk = false ∧
      (∀ i : Fin 60, t.w[i] = wordZero) ∧ SameMatrices s t ∧ SameHost s t)

/-- R151: `KEXPAND` makes the round-key blocks those of `expand` of the held key, zero words above them, and sets `RK_OK`;
without a key it raises `KeyNotReady`. That a held key has a legal length is the invariant R29 (a), (b). -/
def Obligations.KexpandFillsTheSchedule : Prop :=
  ∀ s : State, s.payload = [] →
    (s.keyOk = true → KeyLengthLegal s.klen.toNat → ∃ t blocks, exec .kexpand s = .next t ∧
      expand s.keyBytes = .ok blocks ∧ blocks.length = s.nr + 1 ∧
      (∀ k ≤ s.nr, blocks[k]? = some (t.roundKey k)) ∧
      (∀ i : Fin 60, 4 * (s.nr + 1) ≤ i.val → t.w[i] = wordZero) ∧ t.rkOk = true ∧
      t.keybuf = s.keybuf ∧ t.klen = s.klen ∧ t.keyOk = s.keyOk ∧
      SameMatrices s t ∧ SameErrors s t ∧ SameHost s t ∧ RepliedOk [] t) ∧
    (s.keyOk = false → ∃ t, exec .kexpand s = .next t ∧ FailedWith .keyNotReady s t)

/-- R152: `KCLEAR` erases key and schedule and touches neither the matrix registers nor the error registers. The opcode is
`0x32`. -/
def Obligations.KclearErasesKeyAndSchedule : Prop :=
  HasOpcode 0x32 .kclear ∧
  ∀ s : State, s.payload = [] → ∃ t, exec .kclear s = .next t ∧
    (∀ i : Fin 32, t.keybuf[i] = 0) ∧ t.klen = 0 ∧ t.keyOk = false ∧ (∀ i : Fin 60, t.w[i] = wordZero) ∧
    t.rkOk = false ∧ SameMatrices s t ∧ SameErrors s t ∧ SameHost s t ∧ RepliedOk [] t

/-- R153: `RKREAD k` replies `W[4k] ‖ W[4k+1] ‖ W[4k+2] ‖ W[4k+3]` for `k` up to `NR`; without a schedule it raises
`KeyNotReady`, and with one `IndexRange` above `NR`. The opcode is `0x33`. -/
def Obligations.RkreadRepliesTheRoundKey : Prop :=
  (∀ k < 65536, HasOpcode 0x33 (.rkread k)) ∧
  ∀ (k : Nat) (s : State), s.payload = [] →
    (s.rkOk = true → k ≤ s.nr → ∃ t bytes, exec (.rkread k) s = .next t ∧ RepliedOnly bytes s t ∧
      bytes.length = 16 ∧ ∀ j o : Fin 4, bytes[4 * j.val + o.val]? = s.w[4 * k + j.val]?.map (fun w => w[o])) ∧
    (s.rkOk = false → ∃ t, exec (.rkread k) s = .next t ∧ FailedWith .keyNotReady s t) ∧
    (s.rkOk = true → s.nr < k → ∃ t, exec (.rkread k) s = .next t ∧ FailedWith .indexRange s t)

/-- R141, R154: `RC j` replies `xtime` applied `j - 1` times to `0x01`; `RC 0` raises `RconIndexZero`. The opcode is `0x34`. -/
def Obligations.RcRepliesTheRoundConstant : Prop :=
  (∀ j < 65536, HasOpcode 0x34 (.rc j)) ∧
  ∀ (j : Nat) (s : State), s.payload = [] →
    (1 ≤ j → ∃ t, exec (.rc j) s = .next t ∧ RepliedOnly [xtime^[j - 1] 1] s t) ∧
    (j = 0 → ∃ t, exec (.rc j) s = .next t ∧ FailedWith .rconIndexZero s t)

/-- R155, R156: `ROTWORD` replies its four bytes rotated left by one, `SUBWORD` their S-box entries; any other length raises
`InvalidLength{plen, 1, 4}`. The opcodes are `0x35` and `0x36`. -/
def Obligations.RotwordAndSubwordReplyTheirWords : Prop :=
  HasOpcode 0x35 .rotword ∧ HasOpcode 0x36 .subword ∧
  ∀ s : State,
    (∀ a b c d : Byte, s.payload = [a, b, c, d] →
      (∃ t, exec .rotword s = .next t ∧ RepliedOnly [b, c, d, a] s t) ∧
      (∃ t, exec .subword s = .next t ∧ RepliedOnly [subByte a, subByte b, subByte c, subByte d] s t)) ∧
    (s.payload.length ≠ 4 →
      (∃ t, exec .rotword s = .next t ∧ FailedWith (.invalidLength s.payload.length 1 4) s t) ∧
      (∃ t, exec .subword s = .next t ∧ FailedWith (.invalidLength s.payload.length 1 4) s t))

/-! ### Round pipeline commands -/

/-- R177: `BLKLOAD md` places 16 payload bytes column by column, `M[md][r][c] = payload[r + 4*c]`; any other length raises
`InvalidLength` with the exact triple and leaves the register. The opcode is `0x40`. -/
def Obligations.BlkloadPlacesBytesInWireOrder : Prop :=
  (∀ md : MReg, HasOpcode 0x40 (.blkload md)) ∧
  ∀ (md : MReg) (s : State),
    (s.payload.length = 16 → ∃ t, exec (.blkload md) s = .next t ∧ WroteOnly md s t ∧
      ∀ r c : Fin 4, s.payload[r.val + 4 * c.val]? = some (t.readM md)[r][c]) ∧
    (s.payload.length ≠ 16 →
      ∃ t, exec (.blkload md) s = .next t ∧ FailedWith (.invalidLength s.payload.length 4 4) s t)

/-- R178: `BLKSTORE ma` replies 16 bytes, byte `r + 4*c` being `M[ma][r][c]`, and writes nothing. The opcode is `0x41`. -/
def Obligations.BlkstoreRepliesWireOrderBytes : Prop :=
  (∀ ma : MReg, HasOpcode 0x41 (.blkstore ma)) ∧
  ∀ (ma : MReg) (s : State), s.payload = [] →
    ∃ t bytes, exec (.blkstore ma) s = .next t ∧ RepliedOnly bytes s t ∧ bytes.length = 16 ∧
      ∀ r c : Fin 4, bytes[r.val + 4 * c.val]? = some (s.readM ma)[r][c]

/-- R179, R180: `SUBBYTES md` replaces every byte by its S-box entry; `SHIFTROWS md` makes `new[r][c] = old[r][(c + r) mod
4]`. The opcodes are `0x42` and `0x43`. -/
def Obligations.SubbytesAndShiftrowsChangeTheRegister : Prop :=
  (∀ md : MReg, HasOpcode 0x42 (.subbytes md) ∧ HasOpcode 0x43 (.shiftrows md)) ∧
  ∀ (md : MReg) (s : State), s.payload = [] →
    (∃ t, exec (.subbytes md) s = .next t ∧ WroteOnly md s t ∧
      ∀ r c : Fin 4, (t.readM md)[r][c] = subByte (s.readM md)[r][c]) ∧
    (∃ t, exec (.shiftrows md) s = .next t ∧ WroteOnly md s t ∧
      ∀ r c : Fin 4, (t.readM md)[r][c] = (s.readM md)[r][c + r])

/-- R122, R173, R181: `MIXCOLUMNS md` computes every column from the same old column, with `gf_mul(2, a) = xtime(a)` and
`gf_mul(3, a) = xtime(a) XOR a`. The opcode is `0x44`. -/
def Obligations.MixcolumnsMixesEveryColumn : Prop :=
  (∀ md : MReg, HasOpcode 0x44 (.mixcolumns md)) ∧
  ∀ (md : MReg) (s : State), s.payload = [] →
    ∃ t, exec (.mixcolumns md) s = .next t ∧ WroteOnly md s t ∧
      ∀ (c : Fin 4) (a0 a1 a2 a3 : Byte),
        a0 = (s.readM md)[0][c] → a1 = (s.readM md)[1][c] → a2 = (s.readM md)[2][c] → a3 = (s.readM md)[3][c] →
        (t.readM md)[0][c] = xtime a0 ^^^ (xtime a1 ^^^ a1) ^^^ a2 ^^^ a3 ∧
        (t.readM md)[1][c] = a0 ^^^ xtime a1 ^^^ (xtime a2 ^^^ a2) ^^^ a3 ∧
        (t.readM md)[2][c] = a0 ^^^ a1 ^^^ xtime a2 ^^^ (xtime a3 ^^^ a3) ∧
        (t.readM md)[3][c] = (xtime a0 ^^^ a0) ^^^ a1 ^^^ a2 ^^^ xtime a3

/-- R182: `ADDROUNDKEY md, k` makes `new[r][c] = old[r][c] XOR W[4k + c][r]` for `k` up to `NR`; without a schedule it
raises `KeyNotReady`, and with one `IndexRange` above `NR`. The opcode is `0x45`. -/
def Obligations.AddroundkeyXorsTheRoundKey : Prop :=
  (∀ (md : MReg), ∀ k < 65536, HasOpcode 0x45 (.addroundkey md k)) ∧
  ∀ (md : MReg) (k : Nat) (s : State), s.payload = [] →
    (s.rkOk = true → k ≤ s.nr → ∃ t, exec (.addroundkey md k) s = .next t ∧ WroteOnly md s t ∧
      ∀ r c : Fin 4, s.w[4 * k + c.val]?.map (fun w => (s.readM md)[r][c] ^^^ w[r]) = some (t.readM md)[r][c]) ∧
    (s.rkOk = false → ∃ t, exec (.addroundkey md k) s = .next t ∧ FailedWith .keyNotReady s t) ∧
    (s.rkOk = true → s.nr < k → ∃ t, exec (.addroundkey md k) s = .next t ∧ FailedWith .indexRange s t)

/-- R175, R183: `ROUND md, r` is AddRoundKey alone at `r = 0`, the four transforms in order below `NR`, and SubBytes,
ShiftRows, AddRoundKey without MixColumns at `r = NR`; without a schedule it raises `KeyNotReady`, and with one `IndexRange`
above `NR`. The opcode is `0x46`. -/
def Obligations.RoundAppliesItsTransforms : Prop :=
  (∀ (md : MReg), ∀ r < 65536, HasOpcode 0x46 (.round md r)) ∧
  ∀ (md : MReg) (r : Nat) (s : State), s.payload = [] →
    (s.rkOk = true → r ≤ s.nr → ∃ t, exec (.round md r) s = .next t ∧ WroteOnly md s t ∧
      (r = 0 → t.readM md = addRoundKey (s.readM md) (s.roundKeyMat 0)) ∧
      (0 < r → r < s.nr →
        t.readM md = addRoundKey (mixColumns (shiftRows (subBytes (s.readM md)))) (s.roundKeyMat r)) ∧
      (0 < r → r = s.nr → t.readM md = addRoundKey (shiftRows (subBytes (s.readM md))) (s.roundKeyMat s.nr))) ∧
    (s.rkOk = false → ∃ t, exec (.round md r) s = .next t ∧ FailedWith .keyNotReady s t) ∧
    (s.rkOk = true → s.nr < r → ∃ t, exec (.round md r) s = .next t ∧ FailedWith .indexRange s t)

/-- R176, R184: `ENCBLOCK md` replies `OK` and leaves `M[md]` encrypted; the state it gives is the one the sequence `ROUND
md, 0` ; ... ; `ROUND md, NR` gives. Without a schedule it raises `KeyNotReady`. The opcode is `0x47`. -/
def Obligations.EncblockEqualsItsRounds : Prop :=
  (∀ md : MReg, HasOpcode 0x47 (.encblock md)) ∧
  ∀ (md : MReg) (s : State), s.payload = [] →
    (s.rkOk = true → ∃ t, exec (.encblock md) s = .next t ∧ WroteOnly md s t ∧
      t.readM md = encryptBlock s.roundKeyMat s.nr (s.readM md) ∧
      (runMacro ((List.range (s.nr + 1)).map fun r => (Instr.round md r, [])) s).1 = t) ∧
    (s.rkOk = false → ∃ t, exec (.encblock md) s = .next t ∧ FailedWith .keyNotReady s t)

/-- R57, R186: `ENCRYPT` replies as many bytes as it was given, block `i` of the reply being the encryption of block `i` of
the payload, and writes nothing; a length that is no multiple of 16 raises `InvalidBlockLength` first, a missing schedule
`KeyNotReady`. The opcode is `0x48`. -/
def Obligations.EncryptRepliesTheCiphertext : Prop :=
  HasOpcode 0x48 .encrypt ∧
  ∀ s : State,
    (s.payload.length % 16 = 0 → s.rkOk = true → ∃ t bytes, exec .encrypt s = .next t ∧ RepliedOnly bytes s t ∧
      bytes.length = s.payload.length ∧
      ∀ i < s.payload.length / 16, (bytes.drop (16 * i)).take 16 =
        wire (encryptBlock s.roundKeyMat s.nr (fromWire ((s.payload.drop (16 * i)).take 16)))) ∧
    (s.payload.length % 16 ≠ 0 →
      ∃ t, exec .encrypt s = .next t ∧ FailedWith (.invalidBlockLength s.payload.length) s t) ∧
    (s.payload.length % 16 = 0 → s.rkOk = false → ∃ t, exec .encrypt s = .next t ∧ FailedWith .keyNotReady s t)

/-! ### The functions the commands compute -/

/-- R120, R122: the shift-and-add algorithm computes the product of the polynomials reduced modulo `0x11B`. -/
def Obligations.GfMulIsThePolynomialProduct : Prop := ∀ a b : Byte, gfMul a b = polyProduct a b

/-- R123: the laws of multiplication in the field, and the values given for checking. -/
def Obligations.GfMulObeysTheFieldLaws : Prop :=
  (∀ a b : Byte, gfMul a b = gfMul b a) ∧ (∀ a b c : Byte, gfMul (gfMul a b) c = gfMul a (gfMul b c)) ∧
  (∀ a b c : Byte, gfMul a (b ^^^ c) = gfMul a b ^^^ gfMul a c) ∧ (∀ a : Byte, gfMul a 0x01 = a) ∧
  (∀ a : Byte, gfMul a 0x00 = 0x00) ∧ (∀ a b : Byte, gfMul a b = 0x00 → a = 0x00 ∨ b = 0x00) ∧
  gfMul 0x57 0x83 = 0xC1 ∧ gfMul 0x57 0x13 = 0xFE ∧ gfMul 0x57 0x02 = 0xAE ∧ gfMul 0x02 0x80 = 0x1B ∧
  gfMul 0x03 0x80 = 0x9B ∧ gfMul 0x03 0x26 = 0x6A ∧ gfMul 0xFF 0xFF = 0x13 ∧ gfMul 0x53 0xCA = 0x01

/-- R124, R126, R127: the table is the affine transform of the inverse at all 256 bytes, the inverse is one, zero maps to
zero, and the S-box is a bijection. -/
def Obligations.SboxTableIsAffineOfInverse : Prop :=
  (∀ a : Byte, subByte a = affine (gfInv a)) ∧ (∀ a : Byte, a ≠ 0 → gfMul a (gfInv a) = 1) ∧ gfInv 0 = 0 ∧
  Function.Bijective subByte

/-- R142: the values of `rc` the rule lists, and its period 51. -/
def Obligations.RoundConstantsHavePeriod51 : Prop :=
  rc 0 = none ∧
  (List.range' 1 16).map rc = [some 0x01, some 0x02, some 0x04, some 0x08, some 0x10, some 0x20, some 0x40, some 0x80,
    some 0x1B, some 0x36, some 0x6C, some 0xD8, some 0xAB, some 0x4D, some 0x9A, some 0x2F] ∧
  (∀ n, 1 ≤ n → rc (n + 51) = rc n) ∧ (∀ p, 0 < p → p < 51 → rc (1 + p) ≠ rc 1) ∧
  rc 51 = some 0x8D ∧ rc 52 = some 0x01 ∧ rc 255 = some 0x8D ∧ rc 256 = some 0x01 ∧ rc 65535 = some 0x8D

/-- R147: the words of a schedule obey the recurrence: the first `n_words` are the key's, and every later word is made from
`word[i - n_words]` and `word[i - 1]` by the first of the three cases that applies. -/
def Obligations.ScheduleWordsObeyTheRecurrence : Prop :=
  ∀ (key : List Byte) (nk total : Nat), nk = 4 ∨ nk = 6 ∨ nk = 8 → key.length = 4 * nk →
    (scheduleWords key nk total).length = total ∧
    ∀ i < total, ∀ w : Word, (scheduleWords key nk total)[i]? = some w →
      (i < nk → ∀ o : Fin 4, key[4 * i + o.val]? = some w[o]) ∧
      (nk ≤ i → ∃ before back : Word, (scheduleWords key nk total)[i - 1]? = some before ∧
        (scheduleWords key nk total)[i - nk]? = some back ∧
        (i % nk = 0 → ∃ k : Word, rcon (i / nk) = some k ∧
          w = wordXor (wordXor back (subWord (rotWord before))) k) ∧
        (i % nk ≠ 0 → 6 < nk ∧ i % nk = 4 → w = wordXor back (subWord before)) ∧
        (i % nk ≠ 0 → ¬(6 < nk ∧ i % nk = 4) → w = wordXor back before))

/-- R146, R148, R149 (a): keys of 16, 24 and 32 bytes give 11, 13 and 15 blocks of 16 bytes that begin with the key; every
other length fails. -/
def Obligations.ExpandGivesTheBlocksOfTheKey : Prop :=
  ∀ key : List Byte,
    (∀ n : Nat, (key.length, n) ∈ [(16, 11), (24, 13), (32, 15)] →
      ∃ blocks, expand key = .ok blocks ∧ blocks.length = n ∧ (∀ b ∈ blocks, b.length = 16) ∧
        blocks.flatten.take key.length = key) ∧
    (¬KeyLengthLegal key.length → expand key = .error (.unsupportedKeyLength key.length))

/-- R101 (a) to (g): the laws of the matrix functions, for matrices of every shape, degenerate ones included. -/
def Obligations.MatrixLawsHoldForEveryShape : Prop :=
  (∀ (m n : Nat) (A : Mat m n), transposed (transposed A) = A) ∧
  (∀ (m n : Nat) (A : Mat m n), matXor A A = matNew m n) ∧
  (∀ (m n : Nat) (A B : Mat m n), matXor (matXor A B) B = A) ∧
  (∀ (b : List Byte) (m n : Nat),
    (b.length = m * n → ∃ A, matTryFrom b m n = .ok A ∧ flat A = b) ∧
    (b.length ≠ m * n → matTryFrom b m n = .error (.invalidLength b.length m n))) ∧
  (∀ (m n : Nat) (A : Mat m n), matXor A (matNew m n) = A) ∧
  (∀ (fn : MulFn) (A : Block),
    matMul (matOfFn fun r c : Fin 4 => if r = c then 1 else 0) A (mulFnOp fn) (addFnOp fn) = A) ∧
  (∀ (fn : MulFn) (m k n : Nat) (A : Mat m k) (B : Mat k n),
    transposed (matMul A B (mulFnOp fn) (addFnOp fn)) =
      matMul (transposed B) (transposed A) (mulFnOp fn) (addFnOp fn))

/-- R54, R55: the transpose bridges the two orders of a block, and each load undoes its store. -/
def Obligations.WireOrderIsTheTransposeOfRowMajor : Prop :=
  (∀ b : List Byte, fromWire b = transposed (fromRm b 4 4)) ∧ (∀ S : Block, wire S = flat (transposed S)) ∧
  (∀ S : Block, fromWire (wire S) = S ∧ fromRm (flat S) 4 4 = S) ∧
  (∀ b : List Byte, b.length = 16 → wire (fromWire b) = b ∧ flat (fromRm b 4 4) = b)

/-- R172, R174, R180, R187 (d): SubBytes and ShiftRows commute, four ShiftRows restore the block, AddRoundKey is its own
inverse, and in wire order ShiftRows is the permutation `out[r + 4c] = in[r + 4*((c + r) mod 4)]`. -/
def Obligations.TransformsObeyTheirLaws : Prop :=
  (∀ S : Block, shiftRows (subBytes S) = subBytes (shiftRows S)) ∧
  (∀ S : Block, shiftRows (shiftRows (shiftRows (shiftRows S))) = S) ∧
  (∀ S K : Block, addRoundKey (addRoundKey S K) K = S) ∧
  (∀ (S : Block) (r c : Fin 4),
    (wire (shiftRows S))[r.val + 4 * c.val]? = (wire S)[r.val + 4 * ((c.val + r.val) % 4)]?)

/-- R64, R187 (a): blocks are independent: a message of whole blocks is encrypted piece by piece, and every order in which the
blocks are finished gives the reply of the command. -/
def Obligations.BlocksAreIndependent : Prop :=
  (∀ X Y key : List Byte, X.length % 16 = 0 → Y.length % 16 = 0 → KeyLengthLegal key.length →
    ∃ x y, encrypt X key = .ok x ∧ encrypt Y key = .ok y ∧ encrypt (X ++ Y) key = .ok (x ++ y)) ∧
  (∀ (rk : Nat → Block) (nRounds : Nat) (msg : List Byte) (order : List Nat),
    order.Perm (List.range (msg.length / 16)) → encryptInOrder rk nRounds msg order = encryptMessage rk nRounds msg)

/-! ### Command sequences -/

/-- R79: `SUBBYTES`, `SHIFTROWS` and `MIXCOLUMNS` have the effect of the matrix commands named there, and `MCOPY` copies. -/
def Obligations.TransformsEqualTheirMatrixForms : Prop :=
  ∀ (md : MReg) (s : State), s.payload = [] →
    exec (.subbytes md) s = exec (.mmap md md .sbox) s ∧
    (∃ t, exec (.shiftrows md) s = .next t ∧
      (runMacro [(.mrowrol md 1 1, []), (.mrowrol md 2 2, []), (.mrowrol md 3 3, [])] s).1 = t) ∧
    (∀ mx : MReg, mx ≠ md → ∃ t, exec (.mixcolumns md) s = .next t ∧
      (runMacro (macroMmix mx ++ [(.mmul md mx md .gf, [])]) s).1.readM md = t.readM md) ∧
    (∀ ma : MReg, md ≠ ma → (runMacro (macroMcopy md ma) s).1.readM md = s.readM ma)

/-- R79, R185, R244: from every state the macro `ENCRYPT_CALL key, plaintext` computes the source's one operation
`encrypt(plaintext, key)`. Where that gives a ciphertext, the four commands answer `OK` in turn, the ciphertext is the reply of
`ENCRYPT` (where the operation's result stands is the model's reading, log entry 12), and the macro's response is that of its
last command, `KCLEAR`: `OK` with no bytes. Where it fails, the macro's response is that failure, the key's before the
plaintext's, although the last command issued is a `KCLEAR` that answers `OK`. In every case the macro leaves no key and no
schedule, and the matrix registers as they were. -/
def Obligations.EncryptCallComputesEncrypt : Prop :=
  ∀ (key plaintext : List Byte) (s : State),
    (∀ c, encrypt plaintext key = .ok c →
      (encryptCall key plaintext s).2 = [⟨0, []⟩, ⟨0, []⟩, ⟨0, c⟩, ⟨0, []⟩] ∧
      macroResponse (encryptCall key plaintext s).2 = some ⟨0, []⟩) ∧
    (∀ e, encrypt plaintext key = .error e →
      macroResponse (encryptCall key plaintext s).2 = some ⟨BitVec.ofNat 8 e.code, []⟩ ∧
      (encryptCall key plaintext s).2.getLast? = some ⟨0, []⟩) ∧
    (encryptCall key plaintext s).1.keyOk = false ∧ (encryptCall key plaintext s).1.rkOk = false ∧
    (∀ i : Fin 32, (encryptCall key plaintext s).1.keybuf[i] = 0) ∧
    (∀ i : Fin 60, (encryptCall key plaintext s).1.w[i] = wordZero) ∧
    SameMatrices s (encryptCall key plaintext s).1
end

