-- ==== Sys2Proof/Laws/Decode.lean ====
section
/-! SUPPORT. Packing six fields into a command word and reading them back (30_encoding.md R71). -/

namespace Sys2Proof

theorem commandWord_toNat (f : Fields) (ho : f.opc < 256) (hi : f.imm < 65536) :
    (commandWord f).toNat =
      2 ^ 24 * f.opc + 2 ^ 22 * f.md.val + 2 ^ 20 * f.ma.val + 2 ^ 18 * f.mb.val + 2 ^ 16 * f.fn.val + f.imm := by
  have := f.md.isLt; have := f.ma.isLt; have := f.mb.isLt; have := f.fn.isLt
  simp only [commandWord, BitVec.toNat_ofNat]
  omega

/-- The fields of a packed word are the fields it was packed from, when they fit. -/
theorem fieldsOf_commandWord {f : Fields} (ho : f.opc < 256) (hi : f.imm < 2 ^ Config.immBits) :
    fieldsOf (commandWord f) = f := by
  have hi' : f.imm < 65536 := hi
  have h := commandWord_toNat f ho hi'
  obtain ⟨opc, md, ma, mb, fn, imm⟩ := f
  have := md.isLt; have := ma.isLt; have := mb.isLt; have := fn.isLt
  simp only at h ho hi'
  simp only [fieldsOf, bitSlice, twoBits, h, Fields.mk.injEq]
  refine ⟨by omega, ?_, ?_, ?_, ?_, by omega⟩ <;>
  · refine Fin.ext ?_
    simp only [Fin.ofNat]
    omega

theorem fields_opc_lt (i : Instr) : i.fields.opc < 256 := by
  cases i <;> exact of_decide_eq_true rfl

theorem fields_imm_lt {i : Instr} (h : i.WellFormed) : i.fields.imm < 2 ^ Config.immBits := by
  cases i <;> exact h

/-- The word of a well-formed command has the command's fields (R71, R72). -/
theorem fieldsOf_encode {i : Instr} (h : i.WellFormed) : fieldsOf (encode i) = i.fields :=
  fieldsOf_commandWord (fields_opc_lt i) (fields_imm_lt h)

/-- The opcode byte of a well-formed command's word (R71). -/
theorem encode_opcode {i : Instr} (h : i.WellFormed) : (encode i).extractLsb' 24 8 = BitVec.ofNat 8 i.fields.opc := by
  have hf := congrArg Fields.opc (fieldsOf_encode h)
  simp only [fieldsOf, bitSlice] at hf
  refine BitVec.eq_of_toNat_eq ?_
  rw [← hf]
  simp [Nat.shiftRight_eq_div_pow]

/-- A number sent as four bytes is the number received (R58). -/
theorem ofBe32_be32 (v : BitVec 32) (p : List Byte) : splitCommandBytes (be32 v ++ p) = .ok (v, p) := by
  simp only [be32, List.cons_append, List.nil_append, splitCommandBytes, ofBe32, Except.ok.injEq, Prod.mk.injEq, and_true]
  refine BitVec.eq_of_toNat_eq ?_
  have := v.isLt
  simp only [BitVec.toNat_ofNat]
  omega

end Sys2Proof
end

