-- ==== Sys2Proof/Laws/Matrix.lean ====
section
/-! SUPPORT. Element by element, what the matrix, word and schedule functions give; later proofs cite these lemmas instead of
unfolding the functions. -/

namespace Sys2Proof.Machine

/-! ### Matrices -/

/-- Two matrices of one shape are equal when they have the same byte at every index (R90). -/
theorem mat_ext {m n : Nat} {A B : Mat m n} (h : ∀ (r : Fin m) (c : Fin n), A[r][c] = B[r][c]) : A = B := by
  refine Vector.ext fun r hr => Vector.ext fun c hc => ?_
  exact h ⟨r, hr⟩ ⟨c, hc⟩

@[simp] theorem matOfFn_get {m n : Nat} (f : Fin m → Fin n → Byte) (r : Fin m) (c : Fin n) :
    (matOfFn f)[r][c] = f r c := by
  simp [matOfFn]

@[simp] theorem matNew_get {m n : Nat} (r : Fin m) (c : Fin n) : (matNew m n)[r][c] = 0 := matOfFn_get ..

@[simp] theorem fromRm_get (b : List Byte) {m n : Nat} (r : Fin m) (c : Fin n) :
    (fromRm b m n)[r][c] = b.getD (n * r.val + c.val) 0 := matOfFn_get ..

@[simp] theorem fromWire_get (b : List Byte) (r c : Fin 4) : (fromWire b)[r][c] = b.getD (r.val + 4 * c.val) 0 :=
  matOfFn_get ..

@[simp] theorem transposed_get {m n : Nat} (A : Mat m n) (c : Fin n) (r : Fin m) : (transposed A)[c][r] = A[r][c] :=
  matOfFn_get ..

@[simp] theorem matXor_get {m n : Nat} (A B : Mat m n) (r : Fin m) (c : Fin n) :
    (matXor A B)[r][c] = A[r][c] ^^^ B[r][c] := matOfFn_get ..

@[simp] theorem matMap_get {m n : Nat} (A : Mat m n) (f : Byte → Byte) (r : Fin m) (c : Fin n) :
    (matMap A f)[r][c] = f A[r][c] := matOfFn_get ..

theorem matMul_get {m k n : Nat} (A : Mat m k) (B : Mat k n) (mulFn addFn : Byte → Byte → Byte) (i : Fin m) (j : Fin n) :
    (matMul A B mulFn addFn)[i][j] = foldProducts addFn (List.ofFn fun t : Fin k => mulFn A[i][t] B[t][j]) :=
  matOfFn_get ..

/-- A product of 4x4 matrices has four terms, folded left to right (R95, R107). -/
theorem matMul_get_four (A B : Block) (mulFn addFn : Byte → Byte → Byte) (i j : Fin 4) :
    (matMul A B mulFn addFn)[i][j] =
      addFn (addFn (addFn (mulFn A[i][0] B[0][j]) (mulFn A[i][1] B[1][j])) (mulFn A[i][2] B[2][j]))
        (mulFn A[i][3] B[3][j]) := by
  rw [matMul_get]
  rfl

/-! ### Rows -/

@[simp] theorem rowSet_get_same {m n : Nat} (A : Mat m n) (i : Fin m) (v : Vector Byte n) : (rowSet A i v)[i] = v := by
  simp [rowSet]

theorem rowSet_get_ne {m n : Nat} (A : Mat m n) {i r : Fin m} (v : Vector Byte n) (h : r ≠ i) :
    (rowSet A i v)[r] = A[r] := by
  have : i.val ≠ r.val := fun e => h (Fin.ext e.symm)
  simp [rowSet, this]

@[simp] theorem rowRotl_get {n : Nat} (v : Vector Byte n) (s : Nat) (c : Fin n) :
    (rowRotl v s)[c] = v[(c.val + s) % n]'(Nat.mod_lt _ c.pos) := by
  simp [rowRotl]

/-! ### Byte sequences of a block -/

/-- A vector of four elements, written out. -/
theorem vec4_eq {α : Type} (v : Vector α 4) : v = #v[v[0], v[1], v[2], v[3]] := by
  ext i hi
  have : i = 0 ∨ i = 1 ∨ i = 2 ∨ i = 3 := by omega
  rcases this with h | h | h | h <;> subst h <;> rfl

theorem vec4_toList {α : Type} (v : Vector α 4) : v.toList = [v[0], v[1], v[2], v[3]] := by
  conv_lhs => rw [vec4_eq v]
  rfl

/-- `wire(S)[r + 4*c] = S[r][c]` (R54). -/
theorem wire_get (S : Block) (r c : Fin 4) : (wire S)[r.val + 4 * c.val]? = some S[r][c] := by
  fin_cases r <;> fin_cases c <;> rfl

/-- The bytes of a block are its rows one after another (R53). -/
theorem flat_block (A : Block) : flat A = A[0].toList ++ A[1].toList ++ A[2].toList ++ A[3].toList := by
  simp only [flat, vec4_toList A]
  simp

/-- `flat(A)[4*r + c] = A[r][c]` (R53). -/
theorem flat_block_get (A : Block) (r c : Fin 4) : (flat A)[4 * r.val + c.val]? = some A[r][c] := by
  rw [flat_block, vec4_toList, vec4_toList, vec4_toList, vec4_toList]
  fin_cases r <;> fin_cases c <;> rfl

/-- `new[r][c] = old[r][(c + r) mod 4]` (R172). -/
theorem shiftRows_get (S : Block) (r c : Fin 4) : (shiftRows S)[r][c] = S[r][c + r] := by
  simp [shiftRows, rowRotl, Fin.val_add]

theorem flat_length {m n : Nat} (A : Mat m n) : (flat A).length = m * n := by
  simp [flat, List.length_flatMap]

@[simp] theorem wire_length (S : Block) : (wire S).length = 16 := rfl

/-! ### Words -/

@[simp] theorem wordXor_get (a b : Word) (o : Fin 4) : (wordXor a b)[o] = a[o] ^^^ b[o] := by simp [wordXor]

@[simp] theorem subWord_get (w : Word) (o : Fin 4) : (subWord w)[o] = subByte w[o] := by simp [subWord]

/-! ### Schedule -/

@[simp] theorem scheduleWords_zero (key : List Byte) (nk : Nat) : scheduleWords key nk 0 = [] := rfl

theorem scheduleWords_succ (key : List Byte) (nk i : Nat) :
    scheduleWords key nk (i + 1) = scheduleWords key nk i ++ [scheduleWord key nk (scheduleWords key nk i) i] := rfl

@[simp] theorem scheduleWords_length (key : List Byte) (nk total : Nat) : (scheduleWords key nk total).length = total := by
  induction total with
  | zero => rfl
  | succ n ih => simp [scheduleWords_succ, ih]

/-- "A word is final once written" (R254): a longer schedule begins with every shorter one. -/
theorem scheduleWords_getElem?_of_le (key : List Byte) (nk : Nat) {i total more : Nat} (hi : i < total)
    (h : total ≤ more) : (scheduleWords key nk more)[i]? = (scheduleWords key nk total)[i]? := by
  induction more, h using Nat.le_induction with
  | base => rfl
  | succ n hn ih =>
    rw [scheduleWords_succ, List.getElem?_append_left (by simp; omega), ih]

/-- Each word is made from the words before it (R147). -/
theorem scheduleWords_getElem? (key : List Byte) (nk : Nat) {i total : Nat} (hi : i < total) :
    (scheduleWords key nk total)[i]? = some (scheduleWord key nk (scheduleWords key nk i) i) := by
  rw [scheduleWords_getElem?_of_le key nk (Nat.lt_succ_self i) hi, scheduleWords_succ]
  simp

/-- One turn of `rc`'s loop is one doubling (R121, R141). -/
theorem rcLoop_succ (n : Nat) (a : Byte) : rcLoop (n + 1) a = rcLoop n (xtime a) := by
  simp only [rcLoop, xtime]
  split <;> rfl

end Sys2Proof.Machine
end

