-- ==== Sys2Proof/Laws/State.lean ====
section
/-! SUPPORT. What every update of the state leaves in every field: one lemma per field per update, so that no proof unfolds a
record update. -/

namespace Sys2Proof.Machine

/-! ### `State.writeM` -/

@[simp] theorem State.writeM_m (s : State) (i : MReg) (v : Block) : (s.writeM i v).m = s.m.set i.val v := rfl
@[simp] theorem State.writeM_keybuf (s : State) (i : MReg) (v : Block) : (s.writeM i v).keybuf = s.keybuf := rfl
@[simp] theorem State.writeM_klen (s : State) (i : MReg) (v : Block) : (s.writeM i v).klen = s.klen := rfl
@[simp] theorem State.writeM_w (s : State) (i : MReg) (v : Block) : (s.writeM i v).w = s.w := rfl
@[simp] theorem State.writeM_keyOk (s : State) (i : MReg) (v : Block) : (s.writeM i v).keyOk = s.keyOk := rfl
@[simp] theorem State.writeM_rkOk (s : State) (i : MReg) (v : Block) : (s.writeM i v).rkOk = s.rkOk := rfl
@[simp] theorem State.writeM_err (s : State) (i : MReg) (v : Block) : (s.writeM i v).err = s.err := rfl
@[simp] theorem State.writeM_errCode (s : State) (i : MReg) (v : Block) : (s.writeM i v).errCode = s.errCode := rfl
@[simp] theorem State.writeM_elen (s : State) (i : MReg) (v : Block) : (s.writeM i v).elen = s.elen := rfl
@[simp] theorem State.writeM_erows (s : State) (i : MReg) (v : Block) : (s.writeM i v).erows = s.erows := rfl
@[simp] theorem State.writeM_ecols (s : State) (i : MReg) (v : Block) : (s.writeM i v).ecols = s.ecols := rfl
@[simp] theorem State.writeM_payload (s : State) (i : MReg) (v : Block) : (s.writeM i v).payload = s.payload := rfl
@[simp] theorem State.writeM_response (s : State) (i : MReg) (v : Block) : (s.writeM i v).response = s.response := rfl
@[simp] theorem State.writeM_host (s : State) (i : MReg) (v : Block) : (s.writeM i v).host = s.host := rfl

/-! ### `State.dropSchedule` -/

@[simp] theorem State.dropSchedule_m (s : State) : s.dropSchedule.m = s.m := rfl
@[simp] theorem State.dropSchedule_keybuf (s : State) : s.dropSchedule.keybuf = s.keybuf := rfl
@[simp] theorem State.dropSchedule_klen (s : State) : s.dropSchedule.klen = s.klen := rfl
@[simp] theorem State.dropSchedule_w (s : State) : s.dropSchedule.w = Vector.replicate 60 wordZero := rfl
@[simp] theorem State.dropSchedule_keyOk (s : State) : s.dropSchedule.keyOk = s.keyOk := rfl
@[simp] theorem State.dropSchedule_rkOk (s : State) : s.dropSchedule.rkOk = false := rfl
@[simp] theorem State.dropSchedule_err (s : State) : s.dropSchedule.err = s.err := rfl
@[simp] theorem State.dropSchedule_errCode (s : State) : s.dropSchedule.errCode = s.errCode := rfl
@[simp] theorem State.dropSchedule_elen (s : State) : s.dropSchedule.elen = s.elen := rfl
@[simp] theorem State.dropSchedule_erows (s : State) : s.dropSchedule.erows = s.erows := rfl
@[simp] theorem State.dropSchedule_ecols (s : State) : s.dropSchedule.ecols = s.ecols := rfl
@[simp] theorem State.dropSchedule_payload (s : State) : s.dropSchedule.payload = s.payload := rfl
@[simp] theorem State.dropSchedule_response (s : State) : s.dropSchedule.response = s.response := rfl
@[simp] theorem State.dropSchedule_host (s : State) : s.dropSchedule.host = s.host := rfl

/-! ### `State.dropKey` -/

@[simp] theorem State.dropKey_m (s : State) : s.dropKey.m = s.m := rfl
@[simp] theorem State.dropKey_keybuf (s : State) : s.dropKey.keybuf = Vector.replicate 32 0 := rfl
@[simp] theorem State.dropKey_klen (s : State) : s.dropKey.klen = 0 := rfl
@[simp] theorem State.dropKey_w (s : State) : s.dropKey.w = s.w := rfl
@[simp] theorem State.dropKey_keyOk (s : State) : s.dropKey.keyOk = false := rfl
@[simp] theorem State.dropKey_rkOk (s : State) : s.dropKey.rkOk = s.rkOk := rfl
@[simp] theorem State.dropKey_err (s : State) : s.dropKey.err = s.err := rfl
@[simp] theorem State.dropKey_errCode (s : State) : s.dropKey.errCode = s.errCode := rfl
@[simp] theorem State.dropKey_elen (s : State) : s.dropKey.elen = s.elen := rfl
@[simp] theorem State.dropKey_erows (s : State) : s.dropKey.erows = s.erows := rfl
@[simp] theorem State.dropKey_ecols (s : State) : s.dropKey.ecols = s.ecols := rfl
@[simp] theorem State.dropKey_payload (s : State) : s.dropKey.payload = s.payload := rfl
@[simp] theorem State.dropKey_response (s : State) : s.dropKey.response = s.response := rfl
@[simp] theorem State.dropKey_host (s : State) : s.dropKey.host = s.host := rfl

/-! ### `State.holdKey` -/

@[simp] theorem State.holdKey_m (s : State) (key : List Byte) : (s.holdKey key).m = s.m := by simp only [State.holdKey]
@[simp] theorem State.holdKey_keybuf (s : State) (key : List Byte) : (s.holdKey key).keybuf = Vector.ofFn fun i => key.getD i.val 0 := by simp only [State.holdKey]
@[simp] theorem State.holdKey_klen (s : State) (key : List Byte) : (s.holdKey key).klen = BitVec.ofNat 8 key.length := by simp only [State.holdKey]
@[simp] theorem State.holdKey_w (s : State) (key : List Byte) : (s.holdKey key).w = s.w := by simp only [State.holdKey]
@[simp] theorem State.holdKey_keyOk (s : State) (key : List Byte) : (s.holdKey key).keyOk = true := by simp only [State.holdKey]
@[simp] theorem State.holdKey_rkOk (s : State) (key : List Byte) : (s.holdKey key).rkOk = s.rkOk := by simp only [State.holdKey]
@[simp] theorem State.holdKey_err (s : State) (key : List Byte) : (s.holdKey key).err = s.err := by simp only [State.holdKey]
@[simp] theorem State.holdKey_errCode (s : State) (key : List Byte) : (s.holdKey key).errCode = s.errCode := by simp only [State.holdKey]
@[simp] theorem State.holdKey_elen (s : State) (key : List Byte) : (s.holdKey key).elen = s.elen := by simp only [State.holdKey]
@[simp] theorem State.holdKey_erows (s : State) (key : List Byte) : (s.holdKey key).erows = s.erows := by simp only [State.holdKey]
@[simp] theorem State.holdKey_ecols (s : State) (key : List Byte) : (s.holdKey key).ecols = s.ecols := by simp only [State.holdKey]
@[simp] theorem State.holdKey_payload (s : State) (key : List Byte) : (s.holdKey key).payload = s.payload := by simp only [State.holdKey]
@[simp] theorem State.holdKey_response (s : State) (key : List Byte) : (s.holdKey key).response = s.response := by simp only [State.holdKey]
@[simp] theorem State.holdKey_host (s : State) (key : List Byte) : (s.holdKey key).host = s.host := by simp only [State.holdKey]

/-! ### `State.fillSchedule` -/

@[simp] theorem State.fillSchedule_m (s : State) : s.fillSchedule.m = s.m := by simp only [State.fillSchedule]
@[simp] theorem State.fillSchedule_keybuf (s : State) : s.fillSchedule.keybuf = s.keybuf := by simp only [State.fillSchedule]
@[simp] theorem State.fillSchedule_klen (s : State) : s.fillSchedule.klen = s.klen := by simp only [State.fillSchedule]
@[simp] theorem State.fillSchedule_w (s : State) : s.fillSchedule.w = scheduleStore s.keyBytes s.nk s.nr := by simp only [State.fillSchedule]
@[simp] theorem State.fillSchedule_keyOk (s : State) : s.fillSchedule.keyOk = s.keyOk := by simp only [State.fillSchedule]
@[simp] theorem State.fillSchedule_rkOk (s : State) : s.fillSchedule.rkOk = true := by simp only [State.fillSchedule]
@[simp] theorem State.fillSchedule_err (s : State) : s.fillSchedule.err = s.err := by simp only [State.fillSchedule]
@[simp] theorem State.fillSchedule_errCode (s : State) : s.fillSchedule.errCode = s.errCode := by simp only [State.fillSchedule]
@[simp] theorem State.fillSchedule_elen (s : State) : s.fillSchedule.elen = s.elen := by simp only [State.fillSchedule]
@[simp] theorem State.fillSchedule_erows (s : State) : s.fillSchedule.erows = s.erows := by simp only [State.fillSchedule]
@[simp] theorem State.fillSchedule_ecols (s : State) : s.fillSchedule.ecols = s.ecols := by simp only [State.fillSchedule]
@[simp] theorem State.fillSchedule_payload (s : State) : s.fillSchedule.payload = s.payload := by simp only [State.fillSchedule]
@[simp] theorem State.fillSchedule_response (s : State) : s.fillSchedule.response = s.response := by simp only [State.fillSchedule]
@[simp] theorem State.fillSchedule_host (s : State) : s.fillSchedule.host = s.host := by simp only [State.fillSchedule]

/-! ### `State.replied` -/

@[simp] theorem State.replied_m (s : State) (bytes : List Byte) : (s.replied bytes).m = s.m := rfl
@[simp] theorem State.replied_keybuf (s : State) (bytes : List Byte) : (s.replied bytes).keybuf = s.keybuf := rfl
@[simp] theorem State.replied_klen (s : State) (bytes : List Byte) : (s.replied bytes).klen = s.klen := rfl
@[simp] theorem State.replied_w (s : State) (bytes : List Byte) : (s.replied bytes).w = s.w := rfl
@[simp] theorem State.replied_keyOk (s : State) (bytes : List Byte) : (s.replied bytes).keyOk = s.keyOk := rfl
@[simp] theorem State.replied_rkOk (s : State) (bytes : List Byte) : (s.replied bytes).rkOk = s.rkOk := rfl
@[simp] theorem State.replied_err (s : State) (bytes : List Byte) : (s.replied bytes).err = s.err := rfl
@[simp] theorem State.replied_errCode (s : State) (bytes : List Byte) : (s.replied bytes).errCode = s.errCode := rfl
@[simp] theorem State.replied_elen (s : State) (bytes : List Byte) : (s.replied bytes).elen = s.elen := rfl
@[simp] theorem State.replied_erows (s : State) (bytes : List Byte) : (s.replied bytes).erows = s.erows := rfl
@[simp] theorem State.replied_ecols (s : State) (bytes : List Byte) : (s.replied bytes).ecols = s.ecols := rfl
@[simp] theorem State.replied_payload (s : State) (bytes : List Byte) : (s.replied bytes).payload = [] := rfl
@[simp] theorem State.replied_response (s : State) (bytes : List Byte) : (s.replied bytes).response = some (okResponse bytes) := rfl
@[simp] theorem State.replied_host (s : State) (bytes : List Byte) : (s.replied bytes).host = s.host := rfl

/-! ### `State.raised` -/

@[simp] theorem State.raised_m (s : State) (e : CmdError) : (s.raised e).m = s.m := rfl
@[simp] theorem State.raised_keybuf (s : State) (e : CmdError) : (s.raised e).keybuf = s.keybuf := rfl
@[simp] theorem State.raised_klen (s : State) (e : CmdError) : (s.raised e).klen = s.klen := rfl
@[simp] theorem State.raised_w (s : State) (e : CmdError) : (s.raised e).w = s.w := rfl
@[simp] theorem State.raised_keyOk (s : State) (e : CmdError) : (s.raised e).keyOk = s.keyOk := rfl
@[simp] theorem State.raised_rkOk (s : State) (e : CmdError) : (s.raised e).rkOk = s.rkOk := rfl
@[simp] theorem State.raised_err (s : State) (e : CmdError) : (s.raised e).err = true := rfl
@[simp] theorem State.raised_errCode (s : State) (e : CmdError) : (s.raised e).errCode = BitVec.ofNat 4 e.code := rfl
@[simp] theorem State.raised_elen (s : State) (e : CmdError) : (s.raised e).elen = BitVec.ofNat 32 e.elen := rfl
@[simp] theorem State.raised_erows (s : State) (e : CmdError) : (s.raised e).erows = BitVec.ofNat 8 e.rows := rfl
@[simp] theorem State.raised_ecols (s : State) (e : CmdError) : (s.raised e).ecols = BitVec.ofNat 8 e.cols := rfl
@[simp] theorem State.raised_payload (s : State) (e : CmdError) : (s.raised e).payload = [] := rfl
@[simp] theorem State.raised_response (s : State) (e : CmdError) : (s.raised e).response = some (errorResponse e) := rfl
@[simp] theorem State.raised_host (s : State) (e : CmdError) : (s.raised e).host = s.host := rfl

/-! ### `State.clearErrors` -/

@[simp] theorem State.clearErrors_m (s : State) : s.clearErrors.m = s.m := rfl
@[simp] theorem State.clearErrors_keybuf (s : State) : s.clearErrors.keybuf = s.keybuf := rfl
@[simp] theorem State.clearErrors_klen (s : State) : s.clearErrors.klen = s.klen := rfl
@[simp] theorem State.clearErrors_w (s : State) : s.clearErrors.w = s.w := rfl
@[simp] theorem State.clearErrors_keyOk (s : State) : s.clearErrors.keyOk = s.keyOk := rfl
@[simp] theorem State.clearErrors_rkOk (s : State) : s.clearErrors.rkOk = s.rkOk := rfl
@[simp] theorem State.clearErrors_err (s : State) : s.clearErrors.err = false := rfl
@[simp] theorem State.clearErrors_errCode (s : State) : s.clearErrors.errCode = 0 := rfl
@[simp] theorem State.clearErrors_elen (s : State) : s.clearErrors.elen = 0 := rfl
@[simp] theorem State.clearErrors_erows (s : State) : s.clearErrors.erows = 0 := rfl
@[simp] theorem State.clearErrors_ecols (s : State) : s.clearErrors.ecols = 0 := rfl
@[simp] theorem State.clearErrors_payload (s : State) : s.clearErrors.payload = s.payload := rfl
@[simp] theorem State.clearErrors_response (s : State) : s.clearErrors.response = s.response := rfl
@[simp] theorem State.clearErrors_host (s : State) : s.clearErrors.host = s.host := rfl

/-! ### `State.clearAll` -/

@[simp] theorem State.clearAll_m (s : State) : s.clearAll.m = State.reset.m := by simp only [State.clearAll]
@[simp] theorem State.clearAll_keybuf (s : State) : s.clearAll.keybuf = State.reset.keybuf := by simp only [State.clearAll]
@[simp] theorem State.clearAll_klen (s : State) : s.clearAll.klen = State.reset.klen := by simp only [State.clearAll]
@[simp] theorem State.clearAll_w (s : State) : s.clearAll.w = State.reset.w := by simp only [State.clearAll]
@[simp] theorem State.clearAll_keyOk (s : State) : s.clearAll.keyOk = State.reset.keyOk := by simp only [State.clearAll]
@[simp] theorem State.clearAll_rkOk (s : State) : s.clearAll.rkOk = State.reset.rkOk := by simp only [State.clearAll]
@[simp] theorem State.clearAll_err (s : State) : s.clearAll.err = State.reset.err := by simp only [State.clearAll]
@[simp] theorem State.clearAll_errCode (s : State) : s.clearAll.errCode = State.reset.errCode := by simp only [State.clearAll]
@[simp] theorem State.clearAll_elen (s : State) : s.clearAll.elen = State.reset.elen := by simp only [State.clearAll]
@[simp] theorem State.clearAll_erows (s : State) : s.clearAll.erows = State.reset.erows := by simp only [State.clearAll]
@[simp] theorem State.clearAll_ecols (s : State) : s.clearAll.ecols = State.reset.ecols := by simp only [State.clearAll]
@[simp] theorem State.clearAll_payload (s : State) : s.clearAll.payload = s.payload := by simp only [State.clearAll]
@[simp] theorem State.clearAll_response (s : State) : s.clearAll.response = s.response := by simp only [State.clearAll]
@[simp] theorem State.clearAll_host (s : State) : s.clearAll.host = s.host := by simp only [State.clearAll]

/-! ### `State.accept` -/

@[simp] theorem State.accept_m (s : State) (p : List Byte) (rest : List HostEvent) : (s.accept p rest).m = s.m := rfl
@[simp] theorem State.accept_keybuf (s : State) (p : List Byte) (rest : List HostEvent) : (s.accept p rest).keybuf = s.keybuf := rfl
@[simp] theorem State.accept_klen (s : State) (p : List Byte) (rest : List HostEvent) : (s.accept p rest).klen = s.klen := rfl
@[simp] theorem State.accept_w (s : State) (p : List Byte) (rest : List HostEvent) : (s.accept p rest).w = s.w := rfl
@[simp] theorem State.accept_keyOk (s : State) (p : List Byte) (rest : List HostEvent) : (s.accept p rest).keyOk = s.keyOk := rfl
@[simp] theorem State.accept_rkOk (s : State) (p : List Byte) (rest : List HostEvent) : (s.accept p rest).rkOk = s.rkOk := rfl
@[simp] theorem State.accept_err (s : State) (p : List Byte) (rest : List HostEvent) : (s.accept p rest).err = s.err := rfl
@[simp] theorem State.accept_errCode (s : State) (p : List Byte) (rest : List HostEvent) : (s.accept p rest).errCode = s.errCode := rfl
@[simp] theorem State.accept_elen (s : State) (p : List Byte) (rest : List HostEvent) : (s.accept p rest).elen = s.elen := rfl
@[simp] theorem State.accept_erows (s : State) (p : List Byte) (rest : List HostEvent) : (s.accept p rest).erows = s.erows := rfl
@[simp] theorem State.accept_ecols (s : State) (p : List Byte) (rest : List HostEvent) : (s.accept p rest).ecols = s.ecols := rfl
@[simp] theorem State.accept_payload (s : State) (p : List Byte) (rest : List HostEvent) : (s.accept p rest).payload = p := rfl
@[simp] theorem State.accept_response (s : State) (p : List Byte) (rest : List HostEvent) : (s.accept p rest).response = s.response := rfl
@[simp] theorem State.accept_host (s : State) (p : List Byte) (rest : List HostEvent) : (s.accept p rest).host = rest := rfl

/-! ### `State.presentFirst` -/

@[simp] theorem State.presentFirst_m (s : State) (cw : CommandWord) (p : List Byte) : (s.presentFirst cw p).m = s.m := rfl
@[simp] theorem State.presentFirst_keybuf (s : State) (cw : CommandWord) (p : List Byte) : (s.presentFirst cw p).keybuf = s.keybuf := rfl
@[simp] theorem State.presentFirst_klen (s : State) (cw : CommandWord) (p : List Byte) : (s.presentFirst cw p).klen = s.klen := rfl
@[simp] theorem State.presentFirst_w (s : State) (cw : CommandWord) (p : List Byte) : (s.presentFirst cw p).w = s.w := rfl
@[simp] theorem State.presentFirst_keyOk (s : State) (cw : CommandWord) (p : List Byte) : (s.presentFirst cw p).keyOk = s.keyOk := rfl
@[simp] theorem State.presentFirst_rkOk (s : State) (cw : CommandWord) (p : List Byte) : (s.presentFirst cw p).rkOk = s.rkOk := rfl
@[simp] theorem State.presentFirst_err (s : State) (cw : CommandWord) (p : List Byte) : (s.presentFirst cw p).err = s.err := rfl
@[simp] theorem State.presentFirst_errCode (s : State) (cw : CommandWord) (p : List Byte) : (s.presentFirst cw p).errCode = s.errCode := rfl
@[simp] theorem State.presentFirst_elen (s : State) (cw : CommandWord) (p : List Byte) : (s.presentFirst cw p).elen = s.elen := rfl
@[simp] theorem State.presentFirst_erows (s : State) (cw : CommandWord) (p : List Byte) : (s.presentFirst cw p).erows = s.erows := rfl
@[simp] theorem State.presentFirst_ecols (s : State) (cw : CommandWord) (p : List Byte) : (s.presentFirst cw p).ecols = s.ecols := rfl
@[simp] theorem State.presentFirst_payload (s : State) (cw : CommandWord) (p : List Byte) : (s.presentFirst cw p).payload = s.payload := rfl
@[simp] theorem State.presentFirst_response (s : State) (cw : CommandWord) (p : List Byte) : (s.presentFirst cw p).response = s.response := rfl
@[simp] theorem State.presentFirst_host (s : State) (cw : CommandWord) (p : List Byte) : (s.presentFirst cw p).host = .command cw p :: s.host := rfl

end Sys2Proof.Machine
end

