-- ==== Sys2Proof/Laws/Ops.lean ====
section
/-! SUPPORT. What the shared operations can do, once: reading after writing a register, the derived reads that an update leaves
alone, and for every guard the cases in which it answers a next state. -/

namespace Sys2Proof.Machine

/-! ### Matrix registers -/

@[simp] theorem readM_writeM_same (s : State) (i : MReg) (v : Block) : (s.writeM i v).readM i = v := by
  simp [State.readM]

theorem readM_writeM_ne (s : State) {i j : MReg} (v : Block) (h : j ≠ i) : (s.writeM i v).readM j = s.readM j := by
  have : i.val ≠ j.val := fun e => h (Fin.ext e.symm)
  simp [State.readM, this]

/-! ### Derived reads that an update leaves alone -/

@[simp] theorem State.writeM_nk (s : State) (i : MReg) (v : Block) : (s.writeM i v).nk = s.nk := rfl
@[simp] theorem State.writeM_nr (s : State) (i : MReg) (v : Block) : (s.writeM i v).nr = s.nr := rfl
@[simp] theorem State.writeM_keyBytes (s : State) (i : MReg) (v : Block) : (s.writeM i v).keyBytes = s.keyBytes := rfl
@[simp] theorem State.writeM_wordAt (s : State) (i : MReg) (v : Block) : (s.writeM i v).wordAt = s.wordAt := rfl
@[simp] theorem State.writeM_roundKey (s : State) (i : MReg) (v : Block) : (s.writeM i v).roundKey = s.roundKey := rfl
@[simp] theorem State.writeM_roundKeyMat (s : State) (i : MReg) (v : Block) : (s.writeM i v).roundKeyMat = s.roundKeyMat := rfl

@[simp] theorem State.replied_nk (s : State) (bytes : List Byte) : (s.replied bytes).nk = s.nk := rfl
@[simp] theorem State.replied_nr (s : State) (bytes : List Byte) : (s.replied bytes).nr = s.nr := rfl
@[simp] theorem State.replied_keyBytes (s : State) (bytes : List Byte) : (s.replied bytes).keyBytes = s.keyBytes := rfl
@[simp] theorem State.replied_wordAt (s : State) (bytes : List Byte) : (s.replied bytes).wordAt = s.wordAt := rfl
@[simp] theorem State.replied_roundKey (s : State) (bytes : List Byte) : (s.replied bytes).roundKey = s.roundKey := rfl
@[simp] theorem State.replied_roundKeyMat (s : State) (bytes : List Byte) : (s.replied bytes).roundKeyMat = s.roundKeyMat := rfl
@[simp] theorem State.replied_readM (s : State) (bytes : List Byte) : (s.replied bytes).readM = s.readM := rfl

@[simp] theorem State.raised_nk (s : State) (e : CmdError) : (s.raised e).nk = s.nk := rfl
@[simp] theorem State.raised_nr (s : State) (e : CmdError) : (s.raised e).nr = s.nr := rfl
@[simp] theorem State.raised_keyBytes (s : State) (e : CmdError) : (s.raised e).keyBytes = s.keyBytes := rfl
@[simp] theorem State.raised_wordAt (s : State) (e : CmdError) : (s.raised e).wordAt = s.wordAt := rfl
@[simp] theorem State.raised_roundKey (s : State) (e : CmdError) : (s.raised e).roundKey = s.roundKey := rfl
@[simp] theorem State.raised_roundKeyMat (s : State) (e : CmdError) : (s.raised e).roundKeyMat = s.roundKeyMat := rfl
@[simp] theorem State.raised_readM (s : State) (e : CmdError) : (s.raised e).readM = s.readM := rfl

@[simp] theorem State.clearErrors_nk (s : State) : s.clearErrors.nk = s.nk := rfl
@[simp] theorem State.clearErrors_nr (s : State) : s.clearErrors.nr = s.nr := rfl
@[simp] theorem State.clearErrors_keyBytes (s : State) : s.clearErrors.keyBytes = s.keyBytes := rfl
@[simp] theorem State.clearErrors_wordAt (s : State) : s.clearErrors.wordAt = s.wordAt := rfl
@[simp] theorem State.clearErrors_roundKey (s : State) : s.clearErrors.roundKey = s.roundKey := rfl
@[simp] theorem State.clearErrors_roundKeyMat (s : State) : s.clearErrors.roundKeyMat = s.roundKeyMat := rfl
@[simp] theorem State.clearErrors_readM (s : State) : s.clearErrors.readM = s.readM := rfl

@[simp] theorem State.accept_nk (s : State) (p : List Byte) (rest : List HostEvent) : (s.accept p rest).nk = s.nk := rfl
@[simp] theorem State.accept_nr (s : State) (p : List Byte) (rest : List HostEvent) : (s.accept p rest).nr = s.nr := rfl
@[simp] theorem State.accept_keyBytes (s : State) (p : List Byte) (rest : List HostEvent) : (s.accept p rest).keyBytes = s.keyBytes := rfl
@[simp] theorem State.accept_wordAt (s : State) (p : List Byte) (rest : List HostEvent) : (s.accept p rest).wordAt = s.wordAt := rfl
@[simp] theorem State.accept_roundKey (s : State) (p : List Byte) (rest : List HostEvent) : (s.accept p rest).roundKey = s.roundKey := rfl
@[simp] theorem State.accept_roundKeyMat (s : State) (p : List Byte) (rest : List HostEvent) : (s.accept p rest).roundKeyMat = s.roundKeyMat := rfl
@[simp] theorem State.accept_readM (s : State) (p : List Byte) (rest : List HostEvent) : (s.accept p rest).readM = s.readM := rfl

@[simp] theorem State.presentFirst_nk (s : State) (cw : CommandWord) (p : List Byte) : (s.presentFirst cw p).nk = s.nk := rfl
@[simp] theorem State.presentFirst_nr (s : State) (cw : CommandWord) (p : List Byte) : (s.presentFirst cw p).nr = s.nr := rfl
@[simp] theorem State.presentFirst_keyBytes (s : State) (cw : CommandWord) (p : List Byte) : (s.presentFirst cw p).keyBytes = s.keyBytes := rfl
@[simp] theorem State.presentFirst_wordAt (s : State) (cw : CommandWord) (p : List Byte) : (s.presentFirst cw p).wordAt = s.wordAt := rfl
@[simp] theorem State.presentFirst_roundKey (s : State) (cw : CommandWord) (p : List Byte) : (s.presentFirst cw p).roundKey = s.roundKey := rfl
@[simp] theorem State.presentFirst_roundKeyMat (s : State) (cw : CommandWord) (p : List Byte) : (s.presentFirst cw p).roundKeyMat = s.roundKeyMat := rfl
@[simp] theorem State.presentFirst_readM (s : State) (cw : CommandWord) (p : List Byte) : (s.presentFirst cw p).readM = s.readM := rfl

@[simp] theorem State.dropSchedule_readM (s : State) : s.dropSchedule.readM = s.readM := rfl
@[simp] theorem State.dropKey_readM (s : State) : s.dropKey.readM = s.readM := rfl
@[simp] theorem State.fillSchedule_readM (s : State) : s.fillSchedule.readM = s.readM := by
  funext i; simp [State.readM]
@[simp] theorem State.holdKey_readM (s : State) (key : List Byte) : (s.holdKey key).readM = s.readM := by
  funext i; simp [State.readM]

/-! ### Guards -/

theorem noPayload_of_nil {s : State} (h : s.payload = []) (body : Result) : noPayload s body = body := by
  simp [noPayload, State.plen, h]

theorem noPayload_of_ne {s : State} (h : s.payload ≠ []) (body : Result) :
    noPayload s body = .next (s.raised .illegalCommand) := by
  simp [noPayload, State.plen, h, raise]

theorem noPayload_next {s t : State} {body : Result} (h : noPayload s body = .next t) :
    (s.payload = [] ∧ body = .next t) ∨ (s.payload ≠ [] ∧ t = s.raised .illegalCommand) := by
  by_cases hp : s.payload = []
  · exact .inl ⟨hp, noPayload_of_nil hp body ▸ h⟩
  · rw [noPayload_of_ne hp] at h
    exact .inr ⟨hp, by cases h; rfl⟩

theorem shapedPayload_of_eq {rows cols : Nat} {s : State} (h : s.payload.length = rows * cols) (body : Result) :
    shapedPayload rows cols s body = body := if_pos h

theorem shapedPayload_of_ne {rows cols : Nat} {s : State} (h : s.payload.length ≠ rows * cols) (body : Result) :
    shapedPayload rows cols s body = .next (s.raised (.invalidLength s.payload.length rows cols)) := if_neg h

theorem shapedPayload_next {rows cols : Nat} {s t : State} {body : Result} (h : shapedPayload rows cols s body = .next t) :
    (s.payload.length = rows * cols ∧ body = .next t) ∨
    (s.payload.length ≠ rows * cols ∧ t = s.raised (.invalidLength s.payload.length rows cols)) := by
  by_cases hp : s.payload.length = rows * cols
  · exact .inl ⟨hp, shapedPayload_of_eq hp body ▸ h⟩
  · rw [shapedPayload_of_ne hp] at h
    exact .inr ⟨hp, by cases h; rfl⟩

theorem messagePayload_of_eq {s : State} (h : s.payload.length % 16 = 0) (body : Result) :
    messagePayload s body = body := if_pos h

theorem messagePayload_of_ne {s : State} (h : s.payload.length % 16 ≠ 0) (body : Result) :
    messagePayload s body = .next (s.raised (.invalidBlockLength s.payload.length)) := if_neg h

theorem needKey_of_true {s : State} (h : s.keyOk = true) (body : Result) : needKey s body = body := if_pos h

theorem needKey_of_false {s : State} (h : s.keyOk = false) (body : Result) :
    needKey s body = .next (s.raised .keyNotReady) := if_neg (by simp [h])

theorem needSchedule_of_true {s : State} (h : s.rkOk = true) (body : Result) : needSchedule s body = body := if_pos h

theorem needSchedule_of_false {s : State} (h : s.rkOk = false) (body : Result) :
    needSchedule s body = .next (s.raised .keyNotReady) := if_neg (by simp [h])

theorem indexUpTo_of_le {top i : Nat} (h : i ≤ top) (s : State) (body : Result) : indexUpTo top i s body = body := if_pos h

theorem indexUpTo_of_lt {top i : Nat} (h : top < i) (s : State) (body : Result) :
    indexUpTo top i s body = .next (s.raised .indexRange) := if_neg (by omega)

/-! ### The number of rounds -/

/-- `NR` is at most 14 in every state, so every index up to it names words of `W` (R61). -/
theorem nr_le (s : State) : s.nr ≤ 14 := by
  unfold State.nr
  split
  next h => revert h; unfold keyParams; repeat' split
            all_goals simp; try omega
  next => omega

/-! ### The round-key view of `W` (R25, R56) -/

theorem wordAt_eq (s : State) {i : Nat} (h : i < 60) : s.w[i]? = some (s.wordAt i) := by
  simp [State.wordAt, h]

theorem roundKey_eq (s : State) (k : Nat) :
    s.roundKey k =
      (s.wordAt (4 * k)).toList ++ (s.wordAt (4 * k + 1)).toList ++ (s.wordAt (4 * k + 2)).toList ++
        (s.wordAt (4 * k + 3)).toList := by
  simp [State.roundKey, List.range, List.range.loop]

theorem roundKey_length (s : State) (k : Nat) : (s.roundKey k).length = 16 := by simp [roundKey_eq]

/-- Byte `4*j + o` of `RK[k]` is byte `o` of `W[4k + j]`. -/
theorem roundKey_get (s : State) (k : Nat) (j o : Fin 4) :
    (s.roundKey k)[4 * j.val + o.val]? = some (s.wordAt (4 * k + j.val))[o] := by
  rw [roundKey_eq, vec4_toList, vec4_toList, vec4_toList, vec4_toList]
  fin_cases j <;> fin_cases o <;> rfl

/-- `RKmat(k)[r][c] = W[4k + c][r]` (R56). -/
theorem roundKeyMat_get (s : State) (k : Nat) (r c : Fin 4) :
    (s.roundKeyMat k)[r][c] = (s.wordAt (4 * k + c.val))[r] := by
  unfold State.roundKeyMat
  rw [fromWire_get, Nat.add_comm, List.getD, roundKey_get]
  rfl

end Sys2Proof.Machine
end

