-- ==== Sys2Proof/Laws/Outcomes.lean ====
section
/-! SUPPORT. What the two ways a command ends leave, in the terms of Sys2Proof/Safety.lean: a register written and a reply, a
reply alone, and an error raised. -/

namespace Sys2Proof.Machine

theorem sameKeyState_refl (s : State) : SameKeyState s s := ⟨rfl, rfl, rfl, rfl, rfl⟩

theorem sameErrors_refl (s : State) : SameErrors s s := ⟨rfl, rfl, rfl, rfl, rfl⟩

/-- Writing one register and replying (R220). -/
theorem wroteOnly_writeM (md : MReg) (s : State) (v : Block) : WroteOnly md s ((s.writeM md v).replied []) := by
  refine ⟨fun i hi => ?_, ⟨rfl, rfl, rfl, rfl, rfl⟩, ⟨rfl, rfl, rfl, rfl, rfl⟩, rfl, rfl, rfl⟩
  rw [State.replied_readM, readM_writeM_ne _ _ hi]

/-- Replying (R220). -/
theorem repliedOnly_replied (s : State) (bytes : List Byte) : RepliedOnly bytes s (s.replied bytes) :=
  ⟨fun _ => rfl, sameKeyState_refl s, sameErrors_refl s, rfl, rfl, rfl⟩

theorem code_le (e : CmdError) : e.code ≤ 7 := by cases e <;> simp [CmdError.code]

theorem elen_le (e : CmdError) : e.elen ≤ 0xFFFFFFFF := by cases e <;> simp [CmdError.elen]

/-- Raising an error whose shape fits the 8-bit registers records it (R28, R220). -/
theorem recordsError_raised (s : State) (e : CmdError) (hr : e.rows < 256) (hc : e.cols < 256) :
    RecordsError e (s.raised e) := by
  have := code_le e
  have := elen_le e
  refine ⟨rfl, ?_, ?_, ?_, ?_, rfl, rfl⟩ <;> simp <;> omega

/-- Raising an error writes nothing else (R220, R223). -/
theorem failedWith_raised (s : State) (e : CmdError) (hr : e.rows < 256) (hc : e.cols < 256) :
    FailedWith e s (s.raised e) :=
  ⟨fun _ => rfl, sameKeyState_refl s, rfl, recordsError_raised s e hr hc⟩

end Sys2Proof.Machine
end

