-- ==== Sys2Proof/Laws/PerInstr.lean ====
section
/-! SUPPORT. The family `EncodedFields`, instruction by instruction: the word of a well-formed command has the command's opcode
and operands in the fields of format C (30_encoding.md R71). -/

namespace Sys2Proof.Laws.EncodedFields

/-- The fields of the command's word are the command's. -/
def Statement (i : Instr) : Prop := i.WellFormed → fieldsOf (encode i) = i.fields

theorem nop : Statement .nop :=
  fun h => fieldsOf_commandWord (of_decide_eq_true rfl) h

theorem sreset : Statement .sreset :=
  fun h => fieldsOf_commandWord (of_decide_eq_true rfl) h

theorem errclr : Statement .errclr :=
  fun h => fieldsOf_commandWord (of_decide_eq_true rfl) h

theorem sread (n : Nat) : Statement (.sread n) :=
  fun h => fieldsOf_commandWord (of_decide_eq_true rfl) h

theorem mzero (md : MReg) : Statement (.mzero md) :=
  fun h => fieldsOf_commandWord (of_decide_eq_true rfl) h

theorem mload (md : MReg) : Statement (.mload md) :=
  fun h => fieldsOf_commandWord (of_decide_eq_true rfl) h

theorem mstore (ma : MReg) : Statement (.mstore ma) :=
  fun h => fieldsOf_commandWord (of_decide_eq_true rfl) h

theorem mtrans (md : MReg) (ma : MReg) : Statement (.mtrans md ma) :=
  fun h => fieldsOf_commandWord (of_decide_eq_true rfl) h

theorem mxor (md : MReg) (ma : MReg) (mb : MReg) : Statement (.mxor md ma mb) :=
  fun h => fieldsOf_commandWord (of_decide_eq_true rfl) h

theorem mmul (md : MReg) (ma : MReg) (mb : MReg) (fn : MulFn) : Statement (.mmul md ma mb fn) :=
  fun h => fieldsOf_commandWord (of_decide_eq_true rfl) h

theorem mmap (md : MReg) (ma : MReg) (fn : MapFn) : Statement (.mmap md ma fn) :=
  fun h => fieldsOf_commandWord (of_decide_eq_true rfl) h

theorem mrowrol (md : MReg) (row : Fin 4) (n : Fin 4) : Statement (.mrowrol md row n) :=
  fun h => fieldsOf_commandWord (of_decide_eq_true rfl) h

theorem mrowld (md : MReg) (row : Fin 4) : Statement (.mrowld md row) :=
  fun h => fieldsOf_commandWord (of_decide_eq_true rfl) h

theorem mrowst (ma : MReg) (row : Fin 4) : Statement (.mrowst ma row) :=
  fun h => fieldsOf_commandWord (of_decide_eq_true rfl) h

theorem subbyte : Statement .subbyte :=
  fun h => fieldsOf_commandWord (of_decide_eq_true rfl) h

theorem gfmul : Statement .gfmul :=
  fun h => fieldsOf_commandWord (of_decide_eq_true rfl) h

theorem keyload : Statement .keyload :=
  fun h => fieldsOf_commandWord (of_decide_eq_true rfl) h

theorem kexpand : Statement .kexpand :=
  fun h => fieldsOf_commandWord (of_decide_eq_true rfl) h

theorem kclear : Statement .kclear :=
  fun h => fieldsOf_commandWord (of_decide_eq_true rfl) h

theorem rkread (k : Nat) : Statement (.rkread k) :=
  fun h => fieldsOf_commandWord (of_decide_eq_true rfl) h

theorem rc (j : Nat) : Statement (.rc j) :=
  fun h => fieldsOf_commandWord (of_decide_eq_true rfl) h

theorem rotword : Statement .rotword :=
  fun h => fieldsOf_commandWord (of_decide_eq_true rfl) h

theorem subword : Statement .subword :=
  fun h => fieldsOf_commandWord (of_decide_eq_true rfl) h

theorem blkload (md : MReg) : Statement (.blkload md) :=
  fun h => fieldsOf_commandWord (of_decide_eq_true rfl) h

theorem blkstore (ma : MReg) : Statement (.blkstore ma) :=
  fun h => fieldsOf_commandWord (of_decide_eq_true rfl) h

theorem subbytes (md : MReg) : Statement (.subbytes md) :=
  fun h => fieldsOf_commandWord (of_decide_eq_true rfl) h

theorem shiftrows (md : MReg) : Statement (.shiftrows md) :=
  fun h => fieldsOf_commandWord (of_decide_eq_true rfl) h

theorem mixcolumns (md : MReg) : Statement (.mixcolumns md) :=
  fun h => fieldsOf_commandWord (of_decide_eq_true rfl) h

theorem addroundkey (md : MReg) (k : Nat) : Statement (.addroundkey md k) :=
  fun h => fieldsOf_commandWord (of_decide_eq_true rfl) h

theorem round (md : MReg) (r : Nat) : Statement (.round md r) :=
  fun h => fieldsOf_commandWord (of_decide_eq_true rfl) h

theorem encblock (md : MReg) : Statement (.encblock md) :=
  fun h => fieldsOf_commandWord (of_decide_eq_true rfl) h

theorem encrypt : Statement .encrypt :=
  fun h => fieldsOf_commandWord (of_decide_eq_true rfl) h

end Sys2Proof.Laws.EncodedFields
end

