-- ==== Sys2Proof/Tests/Slice0.lean ====
section
/-! SUPPORT. Tests of the model and witnesses for the statements. Every expected value of a test is taken from the vectors of
95_test_vectors.md (V1 to V30), named at each test. A witness is a concrete state and operands that meet the hypotheses of one
statement, each clause at a boundary of its range. -/

/- The kernel evaluates these theorems one after another; elaborated side by side they would each hold a thread. -/
set_option Elab.async false

namespace Sys2Proof.Tests

open Sys2Proof Sys2Proof.Machine

/-! ### Helpers -/

/-- `len` bytes, first byte the most significant of the number. -/
def bytes : Nat → Nat → List Byte
  | 0, _ => []
  | n + 1, v => BitVec.ofNat 8 (v / 256 ^ n) :: bytes n v

/-- One command with its payload. -/
def run (i : Instr) (payload : List Byte) (s : State) : State :=
  match exec i { s with payload := payload } with
  | .next t => t
  | .fault _ => s
  | .refused _ => s

/-- The next state of an outcome. -/
def after : Result → Option State
  | .next t => some t
  | .fault _ => none
  | .refused _ => none

/-- What a command answers. -/
def answer (i : Instr) (payload : List Byte) (s : State) : Option (Nat × List Byte) :=
  (run i payload s).response.map fun r => (r.code.toNat, r.payload)

/-- The reset state with 16 row-major bytes in a register. -/
def loaded (i : MReg) (v : Nat) : State := State.reset.writeM i (fromRm (bytes 16 v) 4 4)

/-- The 16 row-major bytes of a register. -/
def dump (i : MReg) (s : State) : List Byte := flat (s.readM i)

/-- A state with the four words of round key `k` in `W`, and a schedule for a 16-byte key held. -/
def withRoundKey (k v : Nat) (s : State) : State :=
  { s with
    klen := 16
    keyOk := true
    rkOk := true
    w := Vector.ofFn fun i =>
      if i.val / 4 = k then Vector.ofFn fun o => (bytes 16 v).getD (4 * (i.val % 4) + o.val) 0 else wordZero }

/-- The reset state with a payload on the channel. -/
def given (payload : List Byte) : State := { State.reset with payload := payload }

/-- A state whose `KEY_OK`, `RK_OK` and `KLEN` are set. -/
def keyed (klen : Nat) (keyOk rkOk : Bool) : State :=
  { State.reset with klen := BitVec.ofNat 8 klen, keyOk := keyOk, rkOk := rkOk }

/-- A command presented to the core just after reset. -/
def presented (cw : CommandWord) (payload : List Byte) : State := State.reset.presentFirst cw payload

/-- The decoder refuses the word. -/
def illegal (cw : CommandWord) : Bool :=
  match decode cw with
  | .ok _ => false
  | .error _ => true

/-- The matrix with rows `01 02 03 04` to `0d 0e 0f 10` (V17). -/
def matA : Nat := 0x0102030405060708090a0b0c0d0e0f10

/-- The bytes of V3. -/
def matV3 : Nat := 0x2051156a45261bc0d00202129df3a367

/-- The key of V1. -/
def keyV1 : List Byte := bytes 16 0x5468617473206d79204b756e67204675

/-! ### Well-formed commands -/

/-- An immediate of 65536 does not fit the 16-bit field, one of 65535 does (R71). -/
theorem test_wellformed_refuses_wide_immediates :
    ¬(Instr.sread 65536).WellFormed ∧ ¬(Instr.rkread 65536).WellFormed ∧ ¬(Instr.rc 65536).WellFormed ∧
    ¬(Instr.addroundkey 0 65536).WellFormed ∧ ¬(Instr.round 0 65536).WellFormed ∧ (Instr.sread 65535).WellFormed ∧
    (Instr.rkread 65535).WellFormed ∧ (Instr.rc 65535).WellFormed ∧ (Instr.addroundkey 3 65535).WellFormed ∧
    (Instr.round 3 65535).WellFormed := by decide

/-! ### Decoding: the words of V29, one for every constructor, and of V28 -/

theorem test_decode_system :
    decode 0x00000000 = .ok .nop ∧ decode 0x01000000 = .ok .sreset ∧ decode 0x02000000 = .ok .errclr ∧
    decode 0x03000003 = .ok (.sread 3) := by decide

theorem test_decode_matrix :
    decode 0x10C00000 = .ok (.mzero 3) ∧ decode 0x11400000 = .ok (.mload 1) ∧ decode 0x12200000 = .ok (.mstore 2) ∧
    decode 0x13600000 = .ok (.mtrans 1 2) ∧ decode 0x14D80000 = .ok (.mxor 3 1 2) ∧
    decode 0x15E50000 = .ok (.mmul 3 2 1 .int) ∧ decode 0x16700000 = .ok (.mmap 1 3 .sbox) ∧
    decode 0x178D0000 = .ok (.mrowrol 2 3 1) ∧ decode 0x18C80000 = .ok (.mrowld 3 2) ∧
    decode 0x191C0000 = .ok (.mrowst 1 3) := by decide

theorem test_decode_sbox : decode 0x20000000 = .ok .subbyte ∧ decode 0x21000000 = .ok .gfmul := by decide

theorem test_decode_key :
    decode 0x30000000 = .ok .keyload ∧ decode 0x31000000 = .ok .kexpand ∧ decode 0x32000000 = .ok .kclear ∧
    decode 0x3300000E = .ok (.rkread 14) ∧ decode 0x3400000A = .ok (.rc 10) ∧ decode 0x35000000 = .ok .rotword ∧
    decode 0x36000000 = .ok .subword := by decide

theorem test_decode_round :
    decode 0x40800000 = .ok (.blkload 2) ∧ decode 0x41300000 = .ok (.blkstore 3) ∧ decode 0x42400000 = .ok (.subbytes 1) ∧
    decode 0x43800000 = .ok (.shiftrows 2) ∧ decode 0x44C00000 = .ok (.mixcolumns 3) ∧
    decode 0x4580000C = .ok (.addroundkey 2 12) ∧ decode 0x46C0000E = .ok (.round 3 14) ∧
    decode 0x47400000 = .ok (.encblock 1) ∧ decode 0x48000000 = .ok .encrypt := by decide

/-- V28, the legal words with every operand at its top. -/
theorem test_decode_top_operands :
    decode 0x13F00000 = .ok (.mtrans 3 3) ∧ decode 0x14FC0000 = .ok (.mxor 3 3 3) ∧
    decode 0x15FD0000 = .ok (.mmul 3 3 3 .int) ∧ decode 0x16F00000 = .ok (.mmap 3 3 .sbox) ∧
    decode 0x17CF0000 = .ok (.mrowrol 3 3 3) ∧ decode 0x18CC0000 = .ok (.mrowld 3 3) ∧
    decode 0x193C0000 = .ok (.mrowst 3 3) ∧ decode 0x45C0FFFF = .ok (.addroundkey 3 65535) := by decide

/-- V28, the illegal words. -/
theorem test_decode_rejects_unused_fields :
    ([0x00000001, 0x01800000, 0x0200FFFF, 0x03010000, 0x10100000, 0x10000001, 0x12400000, 0x13040000, 0x14010000,
      0x16040000, 0x17100000, 0x18010000, 0x19400000, 0x30000001, 0x44100000, 0x45010000, 0x46040000, 0x47000001,
      0x48000100] : List CommandWord).all illegal = true := by decide

theorem test_decode_rejects_opcodes_and_functions :
    ([0x04000000, 0x0F000000, 0x15020000, 0x15030000, 0x16010000, 0x16020000, 0x1A000000, 0x1F000000, 0x22000000,
      0x2F000000, 0x37000000, 0x3F000000, 0x49000000, 0x50000000, 0x80000000, 0xFF000000,
      0xFFFFFFFF] : List CommandWord).all illegal = true := by decide

/-- V29, the encodings field by field. -/
theorem test_encode :
    encode (.mmul 3 2 1 .int) = 0x15E50000 ∧ encode (.mrowrol 2 3 1) = 0x178D0000 ∧
    encode (.addroundkey 2 12) = 0x4580000C ∧ encode (.mxor 3 1 2) = 0x14D80000 ∧ encode (.sread 3) = 0x03000003 := by
  decide

/-- R58: the opcode byte comes first. -/
theorem test_command_bytes : commandBytes 0x15E50000 [0xAA] = [0x15, 0xE5, 0x00, 0x00, 0xAA] := by decide

/-- The table's numbering of a word is that of the word, and a word too wide is refused. -/
theorem test_decode_table_word :
    decodeTableWord 32 0x178D0000 = some (.mrowrol 2 3 1) ∧ decodeTableWord 32 0x15020000 = none := by decide

/-! ### System commands -/

/-- V30, V28. -/
theorem test_nop : answer .nop [] State.reset = some (0, []) ∧ answer .nop [0] State.reset = some (5, []) := by decide

theorem test_sreset : dump 1 (run .sreset [] (loaded 1 matA)) = bytes 16 0 ∧ (run .sreset [] (keyed 16 true true)).klen = 0 := by
  decide +kernel

theorem test_errclr : (run .errclr [] (State.reset.raised (.invalidLength 3 4 4))).csrStatus = 0 ∧
    (run .errclr [] (keyed 16 true true)).keyOk = true := by decide

/-- V27: after a failing command with code 6 and both flags set, `STATUS` reads `67`; V26: `EDIM` of a 4x4 `InvalidLength`. -/
theorem test_sread_status_and_edim :
    answer (.sread 0) [] ((keyed 16 true true).raised .keyNotReady) = some (0, [0x00, 0x00, 0x00, 0x67]) ∧
    answer (.sread 3) [] (State.reset.raised (.invalidLength 3 4 4)) = some (0, [0x00, 0x00, 0x04, 0x04]) ∧
    answer (.sread 2) [] (State.reset.raised (.invalidLength 3 4 4)) = some (0, [0x00, 0x00, 0x00, 0x03]) := by decide

/-- R28: the four values `KEYINFO` takes; V27: an index that names no register. -/
theorem test_sread_keyinfo_and_range :
    [0, 16, 24, 32].map (fun n => (keyed n true true).csrKeyinfo) =
      [0x00000000, 0x0000A410, 0x0000C618, 0x0000E820] ∧ answer (.sread 4) [] State.reset = some (7, []) := by decide

/-! ### Matrix commands (V17) -/

theorem test_mzero : dump 2 (run (.mzero 2) [] (loaded 2 matA)) = bytes 16 0 := by decide +kernel

theorem test_mload :
    (run (.mload 0) (bytes 16 matA) State.reset).readM 0 =
      #v[#v[1, 2, 3, 4], #v[5, 6, 7, 8], #v[9, 10, 11, 12], #v[13, 14, 15, 16]] ∧
    answer (.mload 0) [0, 1, 2] State.reset = some (3, []) := by decide +kernel

theorem test_mstore : answer (.mstore 0) [] (loaded 0 matA) = some (0, bytes 16 matA) ∧
    answer (.mstore 3) [] State.reset = some (0, bytes 16 0) := by decide +kernel

theorem test_mtrans : dump 1 (run (.mtrans 1 0) [] (loaded 0 matA)) = bytes 16 0x0105090d02060a0e03070b0f04080c10 := by
  decide +kernel

theorem test_mtrans_in_place :
    dump 0 (run (.mtrans 0 0) [] (loaded 0 matA)) = bytes 16 0x0105090d02060a0e03070b0f04080c10 := by decide +kernel

/-- V7 has the sources apart; here the destination is a source, and the same register twice gives zero. -/
theorem test_mxor : dump 2 (run (.mxor 2 0 2) [] ((loaded 0 matA).writeM 2 (fromRm (bytes 16 0xa55aff00112233445566778899aabbcc) 4 4))) =
      bytes 16 0xa458fc041424344c5c6c7c8494a4b4dc ∧ dump 1 (run (.mxor 1 0 0) [] (loaded 0 matA)) = bytes 16 0 := by
  decide +kernel

theorem test_mmul_int : dump 2 (run (.mmul 2 0 0 .int) [] (loaded 0 matA)) = bytes 16 0x5a646e78cae4fe183a648eb8aae41e58 := by
  decide +kernel

/-- The order of the factors: the mixing matrix on the left, destination the right factor. -/
theorem test_mmul_gf :
    dump 0 (run (.mmul 0 1 0 .gf) [] ((loaded 0 matA).writeM 1 mix)) = bytes 16 0x090a0b0c1d1e1f100102032415161728 ∧
    dump 2 (run (.mmul 2 0 1 .gf) [] ((loaded 0 matA).writeM 1 mix)) = bytes 16 0x0f00050e130c091a07080d062b141132 := by
  decide +kernel

theorem test_mmap : dump 2 (run (.mmap 2 0 .sbox) [] (loaded 0 matA)) = bytes 16 0x7c777bf26b6fc53001672bfed7ab76ca := by
  decide +kernel

theorem test_mrowrol : dump 0 (run (.mrowrol 0 1 1) [] (loaded 0 matA)) = bytes 16 0x0102030406070805090a0b0c0d0e0f10 := by
  decide +kernel

theorem test_mrowld :
    dump 0 (run (.mrowld 0 2) [0xaa, 0xbb, 0xcc, 0xdd] (loaded 0 matA)) = bytes 16 0x0102030405060708aabbccdd0d0e0f10 := by
  decide +kernel

theorem test_mrowst : answer (.mrowst 0 1) [] (loaded 0 matA) = some (0, [0x05, 0x06, 0x07, 0x08]) := by decide +kernel

/-! ### S-box and field commands (V14, V15) -/

theorem test_subbyte : answer .subbyte [0x53] State.reset = some (0, [0xed]) ∧ answer .subbyte [0xfe] State.reset = some (0, [0xbb]) ∧
    answer .subbyte [] State.reset = some (3, []) := by decide +kernel

theorem test_gfmul : answer .gfmul [0x57, 0x83] State.reset = some (0, [0xc1]) ∧ answer .gfmul [0xff, 0xff] State.reset = some (0, [0x13]) := by
  decide +kernel

/-! ### Key schedule commands -/

/-- V27: a good key drops the schedule; the key is not expanded. -/
theorem test_keyload : (run .keyload keyV1 (keyed 16 true true)).csrStatus = 0x00000001 ∧
    (run .keyload keyV1 State.reset).keyBytes = keyV1 := by decide +kernel

/-- V27: a bad key erases key and schedule. -/
theorem test_keyload_bad_length : (run .keyload [0, 1, 2] (keyed 16 true true)).csrStatus = 0x00000014 ∧
    (run .keyload [0, 1, 2] (keyed 16 true true)).elen = 3 := by decide +kernel

/-- V1: blocks 1 and 10, the words above the schedule, and V27's `KeyNotReady`. -/
theorem test_kexpand :
    let t := run .kexpand [] (State.reset.holdKey keyV1)
    t.roundKey 1 = bytes 16 0xe232fcf191129188b159e4e6d679a293 ∧
    t.roundKey 10 = bytes 16 0x28fddef86da4244accc0a4fe3b316f26 ∧ t.wordAt 44 = wordZero := by decide +kernel

/-- V11: block 3 of a 32-byte key, where the middle rule of the recurrence fires. -/
theorem test_kexpand_32 :
    (run .kexpand [] (State.reset.holdKey (bytes 32 0x603deb1015ca71be2b73aef0857d77811f352c073b6108d72d9810a30914dff4))).roundKey 3 =
      bytes 16 0xa8b09c1a93d194cdbe49846eb75d5b9a := by decide +kernel

theorem test_kclear : (run .kclear [] (withRoundKey 1 1 State.reset)).csrStatus = 0 ∧
    (run .kclear [] (withRoundKey 1 1 State.reset)).wordAt 7 = wordZero := by decide +kernel

/-- V1, V27. -/
theorem test_rkread :
    answer (.rkread 1) [] (withRoundKey 1 0xe232fcf191129188b159e4e6d679a293 State.reset) =
      some (0, bytes 16 0xe232fcf191129188b159e4e6d679a293) ∧
    answer (.rkread 11) [] (keyed 16 true true) = some (7, []) ∧ answer (.rkread 0) [] (keyed 16 true false) = some (6, []) := by
  decide +kernel

/-- V2, V16. -/
theorem test_rc : answer (.rc 10) [] State.reset = some (0, [0x36]) ∧ answer (.rc 52) [] State.reset = some (0, [0x01]) ∧
    answer (.rc 0) [] State.reset = some (4, []) := by decide +kernel

theorem test_rotword : answer .rotword [0x67, 0x20, 0x46, 0x75] State.reset = some (0, [0x20, 0x46, 0x75, 0x67]) := by
  decide +kernel

theorem test_subword : answer .subword [0x20, 0x46, 0x75, 0x67] State.reset = some (0, [0xb7, 0x5a, 0x9d, 0x85]) := by
  decide +kernel

/-! ### Round pipeline commands -/

/-- V19: the plaintext of V24, loaded in wire order. -/
theorem test_blkload : dump 1 (run (.blkload 1) (bytes 16 0x54776f204f6e65204e696e652054776f) State.reset) =
    bytes 16 0x544f4e20776e69546f656e772020656f := by decide +kernel

/-- V17: wire order is the transpose of row-major order. -/
theorem test_blkstore :
    answer (.blkstore 0) [] (loaded 0 0x0102030405060708090a0b0c0f100d0e) =
      some (0, bytes 16 0x0105090f02060a1003070b0d04080c0e) := by decide +kernel

/-- V19, round 1. -/
theorem test_subbytes :
    dump 0 (run (.subbytes 0) [] (loaded 0 0x003c6e471f4e22740e081b3154590b1a)) =
      bytes 16 0x63eb9fa0c02f9392ab30afc720cb2ba2 := by decide +kernel

/-- V3. -/
theorem test_shiftrows : dump 0 (run (.shiftrows 0) [] (loaded 0 matV3)) = bytes 16 0x2051156a261bc0450212d002679df3a3 := by
  decide +kernel

/-- V4. -/
theorem test_mixcolumns :
    dump 0 (run (.mixcolumns 0) [] (loaded 0 0x2051156a261bc0450212d002679df3a3)) =
      bytes 16 0x4f0052ba0dcc1645abd260d58adbd2a4 := by decide +kernel

/-- V19, round 1: the words of `RK[1]` are columns. -/
theorem test_addroundkey :
    dump 0 (run (.addroundkey 0 1) [] (withRoundKey 1 0xe232fcf191129188b159e4e6d679a293 (loaded 0 0xba84e81b75a48d40f48d067d7a320e5d))) =
      bytes 16 0x581559cd47b6d439081ce2df8bbae8ce := by decide +kernel

/-- V19, rounds 1 and 10: with and without MixColumns. -/
theorem test_round :
    dump 0 (run (.round 0 1) [] (withRoundKey 1 0xe232fcf191129188b159e4e6d679a293 (loaded 0 0x003c6e471f4e22740e081b3154590b1a))) =
      bytes 16 0x581559cd47b6d439081ce2df8bbae8ce ∧
    dump 0 (run (.round 0 10) [] (withRoundKey 10 0x28fddef86da4244accc0a4fe3b316f26 (loaded 0 0x09a2f07b66d1fc3b8b9ae6307865c489))) =
      bytes 16 0x2957401ac3142202502099d75ff6b33a := by decide +kernel

theorem test_round_range :
    answer (.round 0 11) [] (keyed 16 true true) = some (7, []) ∧ answer (.round 1 0) [] State.reset = some (6, []) := by
  decide +kernel

/-- V19: the whole of V24's block. -/
theorem test_encblock :
    dump 0 (run (.encblock 0) [] ((State.reset.holdKey keyV1).fillSchedule.writeM 0
      (fromRm (bytes 16 0x544f4e20776e69546f656e772020656f) 4 4))) = bytes 16 0x2957401ac3142202502099d75ff6b33a := by
  decide +kernel

/-- V24: one block, in wire order. -/
theorem test_encrypt :
    answer .encrypt (bytes 16 0x54776f204f6e65204e696e652054776f) (State.reset.holdKey keyV1).fillSchedule =
      some (0, bytes 16 0x29c3505f571420f6402299b31a02d73a) := by decide +kernel

/-- V25, V26: the empty message, and the order of the checks. -/
theorem test_encrypt_checks :
    answer .encrypt [] (keyed 16 true true) = some (0, []) ∧ answer .encrypt [0] State.reset = some (2, []) ∧
    answer .encrypt [] State.reset = some (6, []) := by decide +kernel

/-! ### Steps -/

/-- R75: an illegal word is answered with code 5, whatever its payload. -/
theorem test_step_illegal : after (step (presented 0x04000000 [1, 2])) = some (State.reset.raised .illegalCommand) := by
  decide +kernel

/-- R241: a reset abandons the command and the core gives no reply. -/
theorem test_step_reset :
    after (step { loaded 0 matA with host := [.commandCutByReset 0x10000000 []] }) = some State.reset := by decide +kernel

/-! ### Matrix functions of other shapes (V18) -/

theorem test_matmul_two_by_three :
    flat (matMul (fromRm (bytes 6 0x010203040506) 2 3) (transposed (fromRm (bytes 6 0x010203040506) 2 3)) (mulFnOp .int) (addFnOp .int)) =
      [0x0e, 0x20, 0x20, 0x4d] ∧
    flat (matMul (fromRm (bytes 6 0x010203040506) 2 3) (transposed (fromRm (bytes 6 0x010203040506) 2 3)) (mulFnOp .gf) (addFnOp .gf)) =
      [0x00, 0x04, 0x04, 0x15] := by decide +kernel

/-! ### Witnesses: the hypotheses of the statements are met

The payload of the reset state is empty and it meets `s.payload = []`; a theorem per statement says what else its clauses
assume. -/

/-- DecodeOfEncode and FetchedWordIsRunByTheNextStep: well-formed commands at the top of their fields. -/
theorem witness_wellformed : (Instr.round 3 65535).WellFormed ∧ (Instr.mmul 3 3 3 .int).WellFormed := by decide

/-- EncodeOfDecode. -/
theorem witness_EncodeOfDecode : decode 0x3300FFFF = .ok (.rkread 65535) := by decide

/-- WordSpellsARowExactlyWhenItsMaskedBitsMatch. -/
theorem witness_WordSpellsARow :
    (∃ row ∈ opcodeTable, (0x4500FFFF : CommandWord) &&& row.mask = row.matchBits) ∧
    decode 0x4500FFFF = .ok (.addroundkey 0 65535) := by decide

/-- StepRunsTheDecodedCommand and EveryPresentedCommandIsAnswered. -/
theorem witness_StepRunsTheDecodedCommand :
    (presented 0x11400000 (bytes 16 matA)).host = [.command 0x11400000 (bytes 16 matA)] ∧
    decode 0x11400000 = .ok (.mload 1) := by decide

/-- IllegalCommandsAreRejected, clauses 1 to 4, and the first clause of ReportedErrorIsTheFirstInOrder. -/
theorem witness_IllegalCommandsAreRejected :
    (presented 0x04000000 [1]).host = [.command 0x04000000 [1]] ∧ illegal 0x04000000 = true ∧
    (∀ row ∈ opcodeTable, row.opc ≠ ((0x04000000 : CommandWord).extractLsb' 24 8).toNat) ∧
    (0x15020000 : CommandWord).extractLsb' 24 8 = 0x15 ∧ 2 ≤ ((0x15020000 : CommandWord).extractLsb' 16 2).toNat ∧
    (0x16030000 : CommandWord).extractLsb' 24 8 = 0x16 ∧ (0x16030000 : CommandWord).extractLsb' 16 2 ≠ 0 := by decide

/-- A word the decoder refuses spells no command. -/
theorem witness_illegal_word : ∀ i, decode 0x04000000 ≠ .ok i := by
  have h : decode 0x04000000 = .error .noSuchOpcode := by decide
  intro i
  rw [h]
  intro hi
  cases hi

/-- IllegalCommandsAreRejected, clause 5. -/
theorem witness_IllegalCommandsAreRejected_payload : TakesNoPayload .kclear ∧ (given [0]).payload ≠ [] :=
  ⟨trivial, by decide⟩

/-- FailuresArePrecise: a command that fails, one that succeeds, and a failing `KEYLOAD`. -/
theorem witness_FailuresArePrecise :
    (∃ t r, exec (.mload 0) (given [1]) = .next t ∧ t.response = some r ∧ r.code ≠ 0) ∧
    (∃ t r, exec (.mzero 0) (given []) = .next t ∧ t.response = some r ∧ r.code = 0) ∧
    (∃ t r, exec .keyload (given [1]) = .next t ∧ t.response = some r ∧ r.code ≠ 0) :=
  ⟨⟨_, _, rfl, rfl, by decide⟩, ⟨_, _, rfl, rfl, by decide⟩, ⟨_, _, rfl, rfl, by decide⟩⟩

/-- ReportedErrorIsTheFirstInOrder: commands with two causes report the earlier class, and one with none. -/
theorem witness_ReportedErrorIsTheFirstInOrder :
    firstError (given [0]) (.rkread 99) = some .illegalCommand ∧ firstError (given []) (.rkread 99) = some .keyNotReady ∧
    firstError (keyed 16 true true) (.rkread 11) = some .indexRange ∧ firstError (keyed 16 true true) (.rkread 10) = none ∧
    firstError (given [0]) .encrypt = some (.invalidBlockLength 1) ∧ firstError (given []) .encrypt = some .keyNotReady ∧
    firstError (given (bytes 15 0)) (.mload 0) = some (.invalidLength 15 4 4) ∧
    firstError (given (bytes 16 0)) (.mload 0) = none ∧ firstError (given (bytes 17 0)) .keyload = some (.unsupportedKeyLength 17) ∧
    firstError (given []) (.rc 0) = some .rconIndexZero ∧ firstError (given []) (.rc 1) = none ∧
    firstError (given []) (.sread 3) = none ∧ firstError (given []) (.sread 4) = some .indexRange := by decide

/-- FailureNeverDependsOnData: two states with other payload bytes, and their answers. -/
theorem witness_FailureNeverDependsOnData :
    (given (bytes 16 1)).payload.length = (given (bytes 16 2)).payload.length ∧ given (bytes 16 1) ≠ given (bytes 16 2) ∧
    (given (bytes 16 1)).keyOk = (given (bytes 16 2)).keyOk ∧ (given (bytes 16 1)).rkOk = (given (bytes 16 2)).rkOk ∧
    (given (bytes 16 1)).nr = (given (bytes 16 2)).nr ∧
    answer .encrypt (bytes 16 1) State.reset = some (6, []) ∧ answer .encrypt (bytes 16 2) State.reset = some (6, []) := by
  decide +kernel

/-- ResetLeavesEverythingZero and SresetGivesTheResetState: `SRESET` in a state that is not the reset state. -/
theorem witness_ResetLeavesEverythingZero :
    (keyed 16 true true).payload = [] ∧ keyed 16 true true ≠ State.reset ∧
    ∃ t, exec .sreset (keyed 16 true true) = .next t := ⟨by decide, by decide, _, rfl⟩

/-- AppliedResetAbandonsTheCommand. -/
theorem witness_AppliedResetAbandonsTheCommand :
    ({ State.reset with host := [.reset] } : State).host = [.reset] ∧
    ({ State.reset with host := [.commandCutByReset 0 []] } : State).host = [.commandCutByReset 0 []] ∧
    State.reset.host = [] := by decide

/-- A state that meets the invariants and is not the reset state: a 16-byte key expanded, a command presented next. -/
def expanded : State := ((State.reset.holdKey (bytes 16 1)).fillSchedule).presentFirst 0x32000000 []

/-- EveryStepKeepsTheInvariants and HeldScheduleIsTheExpandedKey. -/
theorem witness_invariants : expanded.Inv ∧ expanded.rkOk = true ∧ ∃ t, step expanded = .next t := by
  refine ⟨⟨by decide, by decide, by decide, fun _ => ?_, fun h => ?_, fun h => ?_, by decide, ?_⟩, by decide, ?_⟩
  · simp [expanded, State.keyBytes, State.nk, State.nr]
  · simp [expanded] at h
  · simp [expanded] at h
  · simp [expanded]; decide
  · exact ⟨_, rfl⟩

/-- SreadRepliesTheNamedRegister: every register number and every `KLEN`. -/
theorem witness_SreadRepliesTheNamedRegister :
    (given []).payload = [] ∧ (keyed 0 false false).klen = 0 ∧ (keyed 16 true true).klen = 16 ∧ (keyed 24 true true).klen = 24 ∧
    (keyed 32 true true).klen = 32 ∧ (keyed 16 true true).payload = [] ∧ 3 ≤ 3 ∧ 3 < 4 := by decide

/-- MloadPlacesBytesRowMajor and BlkloadPlacesBytesInWireOrder. -/
theorem witness_block_payload :
    (given (bytes 16 matA)).payload.length = 16 ∧ (given (bytes 15 0)).payload.length ≠ 16 ∧
    (given (bytes 17 0)).payload.length ≠ 16 ∧ (given []).payload.length ≠ 16 := by decide

/-- MrowldReplacesOneRow and RotwordAndSubwordReplyTheirWords. -/
theorem witness_word_payload :
    (given [1, 2, 3, 4]).payload = [1, 2, 3, 4] ∧ (given [1, 2, 3, 4]).payload.length = 4 ∧
    (given [1, 2, 3]).payload.length ≠ 4 ∧ (given [1, 2, 3, 4, 5]).payload.length ≠ 4 ∧ (3 : Fin 4) ≠ 0 := by decide

/-- SubbyteRepliesTheEntry and GfmulRepliesTheProduct. -/
theorem witness_byte_payload :
    (given [0x53]).payload = [0x53] ∧ (given []).payload.length ≠ 1 ∧ (given [1, 2]).payload.length ≠ 1 ∧
    (given [0x57, 0x83]).payload = [0x57, 0x83] ∧ (given [1]).payload.length ≠ 2 ∧ (given [1, 2, 3]).payload.length ≠ 2 := by
  decide

/-- KeyloadHoldsTheKeyOrNone: the three lengths, and lengths beside them. -/
theorem witness_KeyloadHoldsTheKeyOrNone :
    KeyLengthLegal (given (bytes 16 1)).payload.length ∧ KeyLengthLegal (given (bytes 24 1)).payload.length ∧
    KeyLengthLegal (given (bytes 32 1)).payload.length ∧ ¬KeyLengthLegal (given []).payload.length ∧
    ¬KeyLengthLegal (given (bytes 15 1)).payload.length ∧ ¬KeyLengthLegal (given (bytes 33 1)).payload.length := by
  unfold KeyLengthLegal
  decide

/-- KexpandFillsTheSchedule. -/
theorem witness_KexpandFillsTheSchedule :
    (keyed 16 true false).payload = [] ∧ (keyed 16 true false).keyOk = true ∧ KeyLengthLegal (keyed 16 true false).klen.toNat ∧
    KeyLengthLegal (keyed 32 true false).klen.toNat ∧ State.reset.keyOk = false := by
  unfold KeyLengthLegal
  decide

/-- RkreadRepliesTheRoundKey, AddroundkeyXorsTheRoundKey, RoundAppliesItsTransforms, EncblockEqualsItsRounds: a schedule with
`NR = 10` and one with `NR = 14`, the indexes at and above `NR`, and no schedule. -/
theorem witness_schedule_index :
    (keyed 16 true true).payload = [] ∧ (keyed 16 true true).rkOk = true ∧ (keyed 16 true true).nr = 10 ∧
    0 ≤ (keyed 16 true true).nr ∧ 9 < (keyed 16 true true).nr ∧ 10 ≤ (keyed 16 true true).nr ∧
    (keyed 16 true true).nr < 11 ∧ (keyed 32 true true).nr = 14 ∧ (keyed 32 true true).nr < 15 ∧
    (keyed 16 true false).rkOk = false := by decide

/-- RcRepliesTheRoundConstant. -/
theorem witness_RcRepliesTheRoundConstant : (given []).payload = [] ∧ 1 ≤ 1 ∧ 1 ≤ 65535 := by decide

/-- MixcolumnsMixesEveryColumn: the bytes of a column. -/
theorem witness_MixcolumnsMixesEveryColumn :
    (0x20 : Byte) = ((loaded 0 matV3).readM 0)[0][(0 : Fin 4)] ∧ (0x45 : Byte) = ((loaded 0 matV3).readM 0)[1][(0 : Fin 4)] ∧
    (0xd0 : Byte) = ((loaded 0 matV3).readM 0)[2][(0 : Fin 4)] ∧ (0x9d : Byte) = ((loaded 0 matV3).readM 0)[3][(0 : Fin 4)] := by
  decide +kernel

/-- EncryptRepliesTheCiphertext: whole blocks, none, one byte too many, and no schedule. -/
theorem witness_EncryptRepliesTheCiphertext :
    ({ keyed 16 true true with payload := bytes 32 1 } : State).payload.length % 16 = 0 ∧
    ({ keyed 16 true true with payload := bytes 32 1 } : State).rkOk = true ∧ 1 < (bytes 32 1).length / 16 ∧
    (given (bytes 17 1)).payload.length % 16 ≠ 0 ∧ (given []).payload.length % 16 = 0 ∧ (given []).rkOk = false := by decide

/-- ScheduleWordsObeyTheRecurrence: a 32-byte key at an index of each of the four cases. -/
theorem witness_ScheduleWordsObeyTheRecurrence :
    (bytes 32 1).length = 4 * 8 ∧ 7 < 60 ∧ 7 < 8 ∧ 8 ≤ 8 ∧ 8 % 8 = 0 ∧ (12 % 8 ≠ 0 ∧ 6 < 8 ∧ 12 % 8 = 4) ∧
    (13 % 8 ≠ 0 ∧ ¬(6 < 8 ∧ 13 % 8 = 4)) ∧ (scheduleWords (bytes 32 1) 8 60)[7]? = some (wordOf 0 0 0 1) := by
  decide +kernel

/-- ExpandGivesTheBlocksOfTheKey. -/
theorem witness_ExpandGivesTheBlocksOfTheKey :
    ((bytes 16 1).length, 11) ∈ [(16, 11), (24, 13), (32, 15)] ∧ ((bytes 32 1).length, 15) ∈ [(16, 11), (24, 13), (32, 15)] ∧
    ¬KeyLengthLegal (bytes 17 1).length := by
  unfold KeyLengthLegal
  decide

/-- MatrixLawsHoldForEveryShape, WireOrderIsTheTransposeOfRowMajor and BlocksAreIndependent. -/
theorem witness_lengths :
    (bytes 6 0x010203040506).length = 2 * 3 ∧ (bytes 5 1).length ≠ 2 * 3 ∧ (bytes 1 1).length ≠ 0 * 5 ∧
    ([] : List Byte).length = 0 * 5 ∧ (bytes 16 matA).length = 16 ∧ (bytes 32 1).length % 16 = 0 ∧
    [1, 0].Perm (List.range ((bytes 32 1).length / 16)) := by decide

/-- RoundConstantsHavePeriod51, SboxTableIsAffineOfInverse, GfMulObeysTheFieldLaws. -/
theorem witness_field : 0 < 50 ∧ 50 < 51 ∧ 1 ≤ 1 ∧ (0xff : Byte) ≠ 0 ∧ gfMul 0x00 0xff = 0x00 := by decide +kernel

/-- TransformsEqualTheirMatrixForms: other registers. -/
theorem witness_TransformsEqualTheirMatrixForms : State.reset.payload = [] ∧ (3 : MReg) ≠ 0 ∧ (0 : MReg) ≠ 1 := by decide

/-- EncryptCallComputesEncrypt: an operation that succeeds, one that fails on the key, one that fails on the plaintext. -/
theorem witness_EncryptCallComputesEncrypt :
    (∃ c, encrypt [] (bytes 16 1) = .ok c) ∧ encrypt [0] (bytes 15 1) = .error (.unsupportedKeyLength 15) ∧
    encrypt [0] (bytes 16 1) = .error (.invalidBlockLength 1) := by
  refine ⟨⟨_, rfl⟩, rfl, rfl⟩

/-- R79: a macro that completes answers as its last command, `KCLEAR`; one that fails answers as the command that failed. -/
theorem test_encryptCall_reports_kclear :
    macroResponse (encryptCall (bytes 16 1) [] State.reset).2 = some ⟨0, []⟩ ∧
    macroResponse (encryptCall (bytes 15 1) [0] State.reset).2 = some ⟨1, []⟩ ∧
    macroResponse (encryptCall (bytes 16 1) [0] State.reset).2 = some ⟨2, []⟩ := by decide +kernel

end Sys2Proof.Tests
end

section
/-! PROOFS. How a command ends, said once for all commands: the error of the first condition of R219 that holds is raised, or
what the command may write is written and a reply is given. -/

namespace Sys2Proof.Machine

/-! ### Ends of a command body, guard by guard -/

/-- The error of the first condition that holds (R219). -/
def firstCause (causes : List (Bool × CmdError)) : Option CmdError :=
  (causes.find? (fun c => c.1)).map (fun c => c.2)

theorem firstError_eq_firstCause (s : State) (i : Instr) : firstError s i = firstCause (errorCauses s i) := rfl

/-- A body ends as its error conditions `causes` tell: with the first error whose condition holds, raised in the state `base`,
or, when none holds, with a reply from a state that `Written` allows (R219, R220). -/
def Ends (base : State) (Written : State → Prop) (causes : List (Bool × CmdError)) (r : Result) : Prop :=
  (∃ e, firstCause causes = some e ∧ r = .next (base.raised e)) ∨
  (firstCause causes = none ∧ ∃ u bytes, Written u ∧ r = .next (u.replied bytes))

section
variable {base s u : State} {Written : State → Prop} {causes : List (Bool × CmdError)} {r body : Result}

theorem ends_reply {bytes : List Byte} (h : Written u) : Ends base Written [] (reply bytes u) :=
  .inr ⟨rfl, u, bytes, h, rfl⟩

/-- A guard in front of a body puts its condition in front of the body's conditions. -/
theorem ends_guard {c : Bool} {e : CmdError} (hfail : c = true → r = .next (base.raised e))
    (hpass : c = false → Ends base Written causes r) : Ends base Written ((c, e) :: causes) r := by
  cases c with
  | true => exact .inl ⟨e, rfl, hfail rfl⟩
  | false => exact hpass rfl

theorem ends_noPayload (h : Ends s Written causes body) :
    Ends s Written ((s.payload.length != 0, .illegalCommand) :: causes) (noPayload s body) :=
  ends_guard (fun hc => noPayload_of_ne (by simpa using hc) body)
    (fun hc => by rwa [noPayload_of_nil (by simpa using hc)])

theorem ends_shapedPayload {rows cols len : Nat} (hlen : len = rows * cols) (h : Ends s Written causes body) :
    Ends s Written ((s.payload.length != len, .invalidLength s.payload.length rows cols) :: causes)
      (shapedPayload rows cols s body) := by
  subst hlen
  exact ends_guard (fun hc => shapedPayload_of_ne (by simpa using hc) body)
    (fun hc => by rwa [shapedPayload_of_eq (by simpa using hc)])

theorem ends_messagePayload (h : Ends s Written causes body) :
    Ends s Written ((s.payload.length % 16 != 0, .invalidBlockLength s.payload.length) :: causes)
      (messagePayload s body) :=
  ends_guard (fun hc => messagePayload_of_ne (by simpa using hc) body)
    (fun hc => by rwa [messagePayload_of_eq (by simpa using hc)])

theorem ends_needKey (h : s.keyOk = true → Ends s Written causes body) :
    Ends s Written ((!s.keyOk, .keyNotReady) :: causes) (needKey s body) :=
  ends_guard (fun hc => needKey_of_false (by simpa using hc) body) fun hc => by
    have hk : s.keyOk = true := by simpa using hc
    rw [needKey_of_true hk]
    exact h hk

theorem ends_needSchedule (h : Ends s Written causes body) :
    Ends s Written ((!s.rkOk, .keyNotReady) :: causes) (needSchedule s body) :=
  ends_guard (fun hc => needSchedule_of_false (by simpa using hc) body)
    (fun hc => by rwa [needSchedule_of_true (by simpa using hc)])

theorem ends_indexUpTo {top k : Nat} (h : Ends s Written causes body) :
    Ends s Written ((decide (top < k), .indexRange) :: causes) (indexUpTo top k s body) :=
  ends_guard (fun hc => indexUpTo_of_lt (by simpa using hc) s body)
    (fun hc => by rwa [indexUpTo_of_le (by simpa using hc)])

end

/-! ### The guards that stand in one command only -/

theorem keyParams_of_illegal {n : Nat} (h : ¬KeyLengthLegal n) : keyParams n = none := by
  obtain ⟨h16, h24, h32⟩ : n ≠ 16 ∧ n ≠ 24 ∧ n ≠ 32 := by simpa [KeyLengthLegal] using h
  simp [keyParams, h16, h24, h32]

theorem execKeyload_of_legal {s : State} (h : KeyLengthLegal s.payload.length) :
    execKeyload s = reply [] (s.dropSchedule.holdKey s.payload) := by
  rcases h with h | h | h <;> simp [execKeyload, State.plen, keyParams, h]

theorem execKeyload_of_illegal {s : State} (h : ¬KeyLengthLegal s.payload.length) :
    execKeyload s = .next (s.dropSchedule.dropKey.raised (.unsupportedKeyLength s.payload.length)) := by
  simp [execKeyload, State.plen, keyParams_of_illegal h, raise]

/-- `SREAD` names a register exactly up to 3 (R28). -/
theorem csr_eq_none {s : State} {n : Nat} (h : 3 < n) : s.csr n = none := by
  obtain ⟨m, rfl⟩ : ∃ m, n = m + 4 := ⟨n - 4, by omega⟩
  rfl

theorem csr_isSome {s : State} {n : Nat} (h : n ≤ 3) : ∃ v, s.csr n = some v := by
  interval_cases n <;> exact ⟨_, rfl⟩

theorem rc_isSome {j : Nat} (h : j ≠ 0) : ∃ b, rc j = some b := by
  obtain ⟨n, rfl⟩ := Nat.exists_eq_succ_of_ne_zero h
  exact ⟨_, rfl⟩

/-! ### All commands -/

/-- What a command can have written when it replies: nothing, one matrix register, or what the five commands that write other
state write. -/
inductive Writes (s : State) : Instr → State → Prop where
  | nothing (i : Instr) : Writes s i s
  | register (i : Instr) (md : MReg) (v : Block) : Writes s i (s.writeM md v)
  | everything : Writes s .sreset s.clearAll
  | errors : Writes s .errclr s.clearErrors
  | key (h : KeyLengthLegal s.payload.length) : Writes s .keyload (s.dropSchedule.holdKey s.payload)
  | schedule (h : s.keyOk = true) : Writes s .kexpand s.fillSchedule
  | noKey : Writes s .kclear s.dropKey.dropSchedule

/-- The state in which a failing command raises its error: only `KEYLOAD` has written before, erasing the key state (R150,
R217). -/
def failureState (s : State) : Instr → State
  | .keyload => s.dropSchedule.dropKey
  | _ => s

theorem execKeyload_ends (s : State) :
    Ends (failureState s .keyload) (Writes s .keyload) (errorCauses s .keyload) (execKeyload s) := by
  refine ends_guard (fun hc => execKeyload_of_illegal ?_) (fun hc => ?_)
  · simpa [KeyLengthLegal, and_assoc] using hc
  · have h : KeyLengthLegal s.payload.length := by
      simp only [Bool.and_eq_false_iff, bne_eq_false_iff_eq] at hc
      exact or_assoc.mp hc
    rw [execKeyload_of_legal h]
    exact ends_reply (.key h)

theorem execSread_ends (s : State) (n : Nat) :
    Ends s (Writes s (.sread n)) (errorCauses s (.sread n)) (execSread n s) := by
  refine ends_noPayload (ends_guard (fun hc => ?_) (fun hc => ?_))
  · rw [csr_eq_none (by simpa using hc)]
    rfl
  · obtain ⟨v, hv⟩ := csr_isSome (s := s) (n := n) (by simpa using hc)
    rw [hv]
    exact ends_reply (.nothing _)

theorem execRc_ends (s : State) (j : Nat) : Ends s (Writes s (.rc j)) (errorCauses s (.rc j)) (execRc j s) := by
  refine ends_noPayload (ends_guard (fun hc => ?_) (fun hc => ?_))
  · obtain rfl : j = 0 := by simpa using hc
    rfl
  · obtain ⟨b, hb⟩ := rc_isSome (j := j) (by simpa using hc)
    rw [hb]
    exact ends_reply (.nothing _)

/-- Every command ends as its row of the error table tells (R210, R219, R220). -/
theorem exec_ends (i : Instr) (s : State) : Ends (failureState s i) (Writes s i) (errorCauses s i) (exec i s) := by
  cases i with
  | nop | mstore ma | mrowst ma row | blkstore ma => exact ends_noPayload (ends_reply (.nothing _))
  | mzero md | mtrans md ma | mxor md ma mb | mmul md ma mb fn | mmap md ma fn | mrowrol md row n | subbytes md
  | shiftrows md | mixcolumns md => exact ends_noPayload (ends_reply (.register ..))
  | mload md | mrowld md row | blkload md => exact ends_shapedPayload rfl (ends_reply (.register ..))
  | subbyte | gfmul | rotword | subword => exact ends_shapedPayload rfl (ends_reply (.nothing _))
  | addroundkey md k | round md k =>
    exact ends_noPayload (ends_needSchedule (ends_indexUpTo (ends_reply (.register ..))))
  | rkread k => exact ends_noPayload (ends_needSchedule (ends_indexUpTo (ends_reply (.nothing _))))
  | encblock md => exact ends_noPayload (ends_needSchedule (ends_reply (.register ..)))
  | encrypt => exact ends_messagePayload (ends_needSchedule (ends_reply (.nothing _)))
  | sreset => exact ends_noPayload (ends_reply .everything)
  | errclr => exact ends_noPayload (ends_reply .errors)
  | kexpand => exact ends_noPayload (ends_needKey fun h => ends_reply (.schedule h))
  | kclear => exact ends_noPayload (ends_reply .noKey)
  | keyload => exact execKeyload_ends s
  | sread n => exact execSread_ends s n
  | rc j => exact execRc_ends s j

/-- The next states of a command: the first error of R219 recorded, or a reply after a permitted write. -/
theorem exec_next {i : Instr} {s t : State} (h : exec i s = .next t) :
    (∃ e, firstError s i = some e ∧ t = (failureState s i).raised e) ∨
    (firstError s i = none ∧ ∃ u bytes, Writes s i u ∧ t = u.replied bytes) := by
  rcases exec_ends i s with ⟨e, he, hr⟩ | ⟨hn, u, bytes, hw, hr⟩
  · rw [hr] at h
    exact .inl ⟨e, he, by cases h; rfl⟩
  · rw [hr] at h
    exact .inr ⟨hn, u, bytes, hw, by cases h; rfl⟩

/-! ### One step, by the host's next action -/

theorem step_idle {s : State} (h : s.host = []) : step s = .next s := by
  simp [step, h]

theorem step_command {s : State} {cw : CommandWord} {payload : List Byte} {rest : List HostEvent} {i : Instr}
    (h : s.host = .command cw payload :: rest) (hd : decode cw = .ok i) : step s = exec i (s.accept payload rest) := by
  simp [step, h, hd]

theorem step_illegal {s : State} {cw : CommandWord} {payload : List Byte} {rest : List HostEvent} {e : DecodeReject}
    (h : s.host = .command cw payload :: rest) (hd : decode cw = .error e) :
    step s = .next ((s.accept payload rest).raised .illegalCommand) := by
  simp [step, h, hd, raise]

theorem step_reset {s : State} {rest : List HostEvent} (h : s.host = .reset :: rest) :
    step s = .next (State.afterReset rest) := by
  simp [step, h]

theorem step_commandCutByReset {s : State} {cw : CommandWord} {payload : List Byte} {rest : List HostEvent}
    (h : s.host = .commandCutByReset cw payload :: rest) : step s = .next (State.afterReset rest) := by
  simp [step, h]

end Sys2Proof.Machine
end

section
/-! PROOFS. The invariants between commands (10_state.md R24, R29): which updates of the state keep them, and that every step
does. -/

namespace Sys2Proof.Machine

/-! ### The held key and what is derived from its length -/

theorem keyBytes_congr {s t : State} (h : SameKeyState s t) : t.keyBytes = s.keyBytes := by
  obtain ⟨hbuf, hlen, -⟩ := h
  simp [State.keyBytes, hbuf, hlen]

theorem nk_congr {s t : State} (h : SameKeyState s t) : t.nk = s.nk := by
  obtain ⟨-, hlen, -⟩ := h
  simp [State.nk, hlen]

theorem nr_congr {s t : State} (h : SameKeyState s t) : t.nr = s.nr := by
  obtain ⟨-, hlen, -⟩ := h
  simp [State.nr, hlen]

/-- `NK` and `NR` are the numbers of words and rounds of the held key (R24, R146). -/
theorem keyParams_klen {s : State} (h : KeyLengthLegal s.klen.toNat) : keyParams s.klen.toNat = some (s.nk, s.nr) := by
  rcases h with h | h | h <;> simp [State.nk, State.nr, keyParams, h]

theorem keyBytes_length {s : State} (h : s.klen.toNat ≤ 32) : s.keyBytes.length = s.klen.toNat := by
  simp [State.keyBytes, h]

/-- Where the invariants hold, a held key has a length the core supports (R29 (a), (b)). -/
theorem State.Inv.keyLengthLegal {s : State} (h : s.Inv) (hk : s.keyOk = true) : KeyLengthLegal s.klen.toNat := by
  have hne := h.keyOkIff.mp hk
  rcases h.klenLegal with hl | hl | hl | hl
  · exact absurd hl hne
  all_goals simp [KeyLengthLegal, hl]

/-! ### Updates that keep the invariants -/

/-- The invariants speak of the key state and the error registers only, and of the latter only while `ERR = 0`. -/
theorem State.Inv.congr {s t : State} (h : s.Inv) (hkey : SameKeyState s t) (herr : t.err = false → SameErrors s t) :
    t.Inv := by
  have hbytes := keyBytes_congr hkey
  have hnk := nk_congr hkey
  have hnr := nr_congr hkey
  obtain ⟨hbuf, hlen, hw, hkok, hrok⟩ := hkey
  constructor
  case klenLegal => simpa only [hlen] using h.klenLegal
  case keyOkIff => simpa only [hlen, hkok] using h.keyOkIff
  case scheduleNeedsKey => simpa only [hkok, hrok] using h.scheduleNeedsKey
  case scheduleHeld => simpa only [hrok, hw, hbytes, hnk, hnr] using h.scheduleHeld
  case noSchedule => simpa only [hrok, hw] using h.noSchedule
  case noKey => simpa only [hkok, hbuf] using h.noKey
  case unusedZero => simpa only [hlen, hbuf] using h.unusedZero
  case noError =>
    intro ht
    obtain ⟨he, hcode, helen, hrows, hcols⟩ := herr ht
    simpa only [hcode, helen, hrows, hcols] using h.noError (he ▸ ht)

theorem inv_raised {s : State} (h : s.Inv) (e : CmdError) : (s.raised e).Inv :=
  h.congr (sameKeyState_refl s) (fun he => by simp at he)

theorem inv_replied {s : State} (h : s.Inv) (bytes : List Byte) : (s.replied bytes).Inv :=
  h.congr (sameKeyState_refl s) (fun _ => sameErrors_refl s)

theorem inv_writeM {s : State} (h : s.Inv) (md : MReg) (v : Block) : (s.writeM md v).Inv :=
  h.congr (sameKeyState_refl s) (fun _ => sameErrors_refl s)

theorem inv_accept {s : State} (h : s.Inv) (payload : List Byte) (rest : List HostEvent) : (s.accept payload rest).Inv :=
  h.congr (sameKeyState_refl s) (fun _ => sameErrors_refl s)

/-- Clearing the error registers keeps every clause about the key, and (g) holds of zero registers. -/
theorem inv_clearErrors {s : State} (h : s.Inv) : s.clearErrors.Inv :=
  { h with noError := fun _ => ⟨rfl, rfl, rfl, rfl⟩ }

theorem inv_reset : State.reset.Inv where
  klenLegal := .inl rfl
  keyOkIff := by simp [State.reset]
  scheduleNeedsKey := id
  scheduleHeld h := by simp [State.reset] at h
  noSchedule _ i := by simp [State.reset]
  noKey _ i := by simp [State.reset]
  noError _ := ⟨rfl, rfl, rfl, rfl⟩
  unusedZero i _ := by simp [State.reset]

theorem inv_clearAll (s : State) : s.clearAll.Inv :=
  inv_reset.congr (sameKeyState_refl State.reset) (fun _ => sameErrors_refl State.reset)

theorem inv_afterReset (rest : List HostEvent) : (State.afterReset rest).Inv :=
  inv_reset.congr (sameKeyState_refl State.reset) (fun _ => sameErrors_refl State.reset)

/-- Discarding the schedule leaves no schedule to speak of, and zero words. -/
theorem inv_dropSchedule {s : State} (h : s.Inv) : s.dropSchedule.Inv :=
  { h with
    scheduleNeedsKey := fun hr => by simp at hr
    scheduleHeld := fun hr => by simp at hr
    noSchedule := fun _ i => by simp }

/-- The key may be erased once no schedule is held. -/
theorem inv_dropKey {s : State} (h : s.Inv) (hr : s.rkOk = false) : s.dropKey.Inv :=
  { h with
    klenLegal := .inl rfl
    keyOkIff := by simp
    scheduleNeedsKey := fun hr' => by simp [hr] at hr'
    scheduleHeld := fun hr' => by simp [hr] at hr'
    noKey := fun _ i => by simp
    unusedZero := fun i _ => by simp }

/-- A key of a legal length may be stored once no schedule is held; the bytes above it are zero (R24, R150). -/
theorem inv_holdKey {s : State} (h : s.Inv) (hr : s.rkOk = false) {key : List Byte} (hlen : KeyLengthLegal key.length) :
    (s.holdKey key).Inv where
  klenLegal := by rcases hlen with hl | hl | hl <;> simp [hl]
  keyOkIff := by rcases hlen with hl | hl | hl <;> simp [hl]
  scheduleNeedsKey _ := by simp
  scheduleHeld hr' := by simp [hr] at hr'
  noSchedule _ := by simpa using h.noSchedule hr
  noKey hk := by simp at hk
  noError := by simpa using h.noError
  unusedZero i hi := by
    have hle : key.length ≤ i.val := by
      rcases hlen with hl | hl | hl <;> simpa [hl] using hi
    simp [hle]

/-- Filling `W` makes (d) true by its definition; it needs a held key for (c) only. -/
theorem inv_fillSchedule {s : State} (h : s.Inv) (hk : s.keyOk = true) : s.fillSchedule.Inv where
  klenLegal := by simpa using h.klenLegal
  keyOkIff := by simpa using h.keyOkIff
  scheduleNeedsKey _ := by simpa using hk
  scheduleHeld _ := by simp [State.keyBytes, State.nk, State.nr]
  noSchedule hr := by simp at hr
  noKey := by simpa using h.noKey
  noError := by simpa using h.noError
  unusedZero := by simpa using h.unusedZero

/-! ### Every command and every step -/

theorem inv_of_writes {i : Instr} {s u : State} (h : s.Inv) (hw : Writes s i u) : u.Inv := by
  cases hw with
  | nothing => exact h
  | register _ md v => exact inv_writeM h md v
  | everything => exact inv_clearAll s
  | errors => exact inv_clearErrors h
  | key hlen => exact inv_holdKey (inv_dropSchedule h) rfl hlen
  | schedule hk => exact inv_fillSchedule h hk
  | noKey => exact inv_dropKey (inv_dropSchedule h) rfl

theorem inv_failureState {s : State} (h : s.Inv) (i : Instr) : (failureState s i).Inv := by
  unfold failureState
  split
  · exact inv_dropKey (inv_dropSchedule h) rfl
  · exact h

theorem inv_exec {i : Instr} {s t : State} (h : s.Inv) (he : exec i s = .next t) : t.Inv := by
  rcases exec_next he with ⟨e, -, rfl⟩ | ⟨-, u, bytes, hw, rfl⟩
  · exact inv_raised (inv_failureState h i) e
  · exact inv_replied (inv_of_writes h hw) bytes

theorem inv_step {s t : State} (h : s.Inv) (ht : step s = .next t) : t.Inv := by
  rcases hh : s.host with _ | ⟨_ | _ | _, rest⟩
  case nil =>
    rw [step_idle hh] at ht
    cases ht
    exact h
  case cons.command cw payload =>
    cases hd : decode cw with
    | ok i =>
      rw [step_command hh hd] at ht
      exact inv_exec (inv_accept h payload rest) ht
    | error e =>
      rw [step_illegal hh hd] at ht
      cases ht
      exact inv_raised (inv_accept h payload rest) _
  case cons.reset =>
    rw [step_reset hh] at ht
    cases ht
    exact inv_afterReset rest
  case cons.commandCutByReset =>
    rw [step_commandCutByReset hh] at ht
    cases ht
    exact inv_afterReset rest

/-- Settles O17: by cases on the host's next action; a command changes the key state and the error registers only by the
updates that keep the invariants. -/
theorem everyStepKeepsTheInvariants : Obligations.EveryStepKeepsTheInvariants :=
  fun _ _ h ht => inv_step h ht

/-- Settles O16. -/
theorem resetMeetsTheInvariants : Obligations.ResetMeetsTheInvariants := inv_reset

end Sys2Proof.Machine
end

section
/-! PROOFS. What a step runs, what reset leaves, the round keys of a held schedule, and the control and status registers
(10_state.md R28, R29, R30, R33). -/

namespace Sys2Proof.Machine

/-! ### The command of a word (R71, R74) -/

/-- The row with a command's opcode reads the command's fields back as that command; a function select is the only operand the
row translates. -/
theorem decodeFields_fields (i : Instr) : decodeFields i.fields = .ok i := by
  cases i with
  | mmul md ma mb fn => cases fn <;> rfl
  | mmap md ma fn => cases fn; rfl
  | _ => rfl

theorem decode_encode {i : Instr} (h : i.WellFormed) : decode (encode i) = .ok i := by
  rw [decode, fieldsOf_encode h, decodeFields_fields]

theorem ofNat_toNat_mod (cw : CommandWord) : BitVec.ofNat 32 (cw.toNat % 2 ^ 32) = cw := by
  rw [Nat.mod_eq_of_lt cw.isLt, BitVec.ofNat_toNat, BitVec.setWidth_eq]

/-- The table's numbering of a word is the word itself, laid out most significant byte first (R58, R71). -/
theorem decodeTableWord_of_decode {cw : CommandWord} {i : Instr} (h : decode cw = .ok i) :
    decodeTableWord 32 cw.toNat = some i := by
  have hsplit : splitCommandBytes (be32 cw) = .ok (cw, []) := by
    simpa using ofBe32_be32 cw []
  rw [decodeTableWord, if_pos le_rfl, ofNat_toNat_mod]
  simp [decodeBytes, hsplit, h]

theorem withFetchWord_host (s : State) (cw : CommandWord) :
    (s.withFetchWord 32 cw.toNat).host = .command cw s.payload :: s.host := by
  rw [State.withFetchWord, ofNat_toNat_mod, State.presentFirst_host]

/-- Taking the command that `withFetchWord` presented gives the state back. -/
theorem withFetchWord_accept (s : State) (nbits w : Nat) :
    (s.withFetchWord nbits w).accept s.payload s.host = s := rfl

/-- Settles O6. -/
theorem stepRunsTheDecodedCommand : Obligations.StepRunsTheDecodedCommand :=
  fun _ _ _ _ _ hhost hdecode => step_command hhost hdecode

/-- Settles O7, from the round trip of the decoder. -/
theorem fetchedWordIsRunByTheNextStep : Obligations.FetchedWordIsRunByTheNextStep := by
  intro i s h
  have hd := decode_encode h
  refine ⟨?_, decodeTableWord_of_decode hd⟩
  rw [step_command (withFetchWord_host s (encode i)) hd, withFetchWord_accept]

/-! ### Reset (R33) -/

/-- The command `SRESET` gives the reset state, apart from the channels. -/
theorem execSreset_next {s t : State} (hp : s.payload = []) (h : exec .sreset s = .next t) :
    t = s.clearAll.replied [] := by
  have hr : exec .sreset s = reply [] s.clearAll := noPayload_of_nil hp _
  rw [hr] at h
  cases h
  rfl

/-- Settles O14: the reset state and the state after `SRESET` differ in the channels only. -/
theorem resetLeavesEverythingZero : Obligations.ResetLeavesEverythingZero := by
  intro t ht
  obtain ⟨p, r, host, rfl⟩ : ∃ p r host, t = { State.reset with payload := p, response := r, host := host } := by
    rcases ht with rfl | ⟨s, hp, hs⟩
    · exact ⟨_, _, _, rfl⟩
    · exact ⟨_, _, _, execSreset_next hp hs⟩
  refine ⟨fun i r c => ?_, fun i => ?_, rfl, ?_, ?_, fun i o => ?_, rfl, rfl, rfl, rfl, rfl, rfl, rfl⟩
  · simp [State.readM, State.reset]
  · simp [State.reset]
  · simp [State.nk, State.reset]
  · simp [State.nr, keyParams, State.reset]
  · simp [State.reset, wordZero]

/-! ### Round keys of a held schedule (R25, R29 (d), R148) -/

theorem scheduleStore_get (key : List Byte) (nk nr : Nat) (i : Fin 60) :
    (scheduleStore key nk nr)[i] = (scheduleWords key nk (4 * (nr + 1))).getD i.val wordZero := by
  simp [scheduleStore]

theorem wordAt_of_schedule {s : State} (hw : s.w = scheduleStore s.keyBytes s.nk s.nr) {i : Nat} (hi : i < 60) :
    s.wordAt i = (scheduleWords s.keyBytes s.nk (4 * (s.nr + 1))).getD i wordZero := by
  rw [State.wordAt, dif_pos hi, hw]
  exact scheduleStore_get s.keyBytes s.nk s.nr ⟨i, hi⟩

/-- Where `W` holds the schedule, its round-key view is the schedule regrouped in blocks. -/
theorem wordsToBlocks_of_schedule {s : State} (hw : s.w = scheduleStore s.keyBytes s.nk s.nr) :
    wordsToBlocks (scheduleWords s.keyBytes s.nk (4 * (s.nr + 1))) (s.nr + 1) =
      (List.range (s.nr + 1)).map s.roundKey := by
  refine List.map_congr_left fun k hk => List.flatMap_congr fun j hj => ?_
  have hk' : k < s.nr + 1 := List.mem_range.mp hk
  have hj' : j < 4 := List.mem_range.mp hj
  have hnr := nr_le s
  rw [wordAt_of_schedule hw (by omega)]

theorem expand_keyBytes {s : State} (h : KeyLengthLegal s.klen.toNat) :
    expand s.keyBytes =
      .ok (wordsToBlocks (scheduleWords s.keyBytes s.nk (4 * (s.nr + 1))) (s.nr + 1)) := by
  have hle : s.klen.toNat ≤ 32 := by
    unfold KeyLengthLegal at h
    omega
  simp only [expand, keyBytes_length hle, keyParams_klen h]

/-- Settles O18, from R29 (d) and the legal length of a held key. -/
theorem heldScheduleIsTheExpandedKey : Obligations.HeldScheduleIsTheExpandedKey := by
  intro s h hr
  have hlegal := h.keyLengthLegal (h.scheduleNeedsKey hr)
  refine ⟨?_, fun k _ => roundKey_length s k⟩
  rw [expand_keyBytes hlegal, wordsToBlocks_of_schedule (h.scheduleHeld hr)]

/-! ### Control and status registers (R28, R204) -/

theorem be32_eq_extractLsb' (v : BitVec 32) :
    be32 v = [v.extractLsb' 24 8, v.extractLsb' 16 8, v.extractLsb' 8 8, v.extractLsb' 0 8] := by
  simp only [be32, BitVec.extractLsb', Nat.shiftRight_eq_div_pow, Nat.pow_zero, Nat.div_one]

theorem bit_eq_toNat (b : Bool) : bit b = b.toNat := by
  cases b <;> rfl

/-- `STATUS`: `KEY_OK` at bit 0, `RK_OK` at bit 1, `ERR` at bit 2, `ERRCODE` at bits 7 to 4, the other bits zero. -/
theorem csrStatus_fields (s : State) :
    s.csrStatus.extractLsb' 0 1 = BitVec.ofBool s.keyOk ∧ s.csrStatus.extractLsb' 1 1 = BitVec.ofBool s.rkOk ∧
    s.csrStatus.extractLsb' 2 1 = BitVec.ofBool s.err ∧ s.csrStatus.extractLsb' 3 1 = 0 ∧
    s.csrStatus.extractLsb' 4 4 = s.errCode ∧ s.csrStatus.extractLsb' 8 24 = 0 := by
  have hcode := s.errCode.isLt
  have hkey := s.keyOk.toNat_lt
  have hrk := s.rkOk.toNat_lt
  have herr := s.err.toNat_lt
  refine ⟨?_, ?_, ?_, ?_, ?_, ?_⟩ <;>
  · refine BitVec.eq_of_toNat_eq ?_
    simp [State.csrStatus, bit_eq_toNat, Nat.shiftRight_eq_div_pow]
    omega

/-- `KEYINFO` at the four values `KLEN` takes. -/
theorem csrKeyinfo_values (s : State) :
    (s.klen = 0 → s.csrKeyinfo = 0x00000000) ∧ (s.klen = 16 → s.csrKeyinfo = 0x0000A410) ∧
    (s.klen = 24 → s.csrKeyinfo = 0x0000C618) ∧ (s.klen = 32 → s.csrKeyinfo = 0x0000E820) := by
  refine ⟨?_, ?_, ?_, ?_⟩ <;> intro h <;> simp [State.csrKeyinfo, State.nk, State.nr, keyParams, h]

/-- `EDIM`: `EROWS` at bits 7 to 0, `ECOLS` at bits 15 to 8, the other bits zero. -/
theorem csrEdim_fields (s : State) :
    s.csrEdim.extractLsb' 0 8 = s.erows ∧ s.csrEdim.extractLsb' 8 8 = s.ecols ∧ s.csrEdim.extractLsb' 16 16 = 0 := by
  have hrows := s.erows.isLt
  have hcols := s.ecols.isLt
  refine ⟨?_, ?_, ?_⟩ <;>
  · refine BitVec.eq_of_toNat_eq ?_
    simp [State.csrEdim, Nat.shiftRight_eq_div_pow]
    omega

theorem execSread_of_some {s : State} {n : Nat} {v : BitVec 32} (hp : s.payload = []) (h : s.csr n = some v) :
    exec (.sread n) s = .next (s.replied (be32 v)) := by
  simp [exec, execSread, noPayload_of_nil hp, h, reply]

theorem execSread_of_none {s : State} {n : Nat} (hp : s.payload = []) (h : s.csr n = none) :
    exec (.sread n) s = .next (s.raised .indexRange) := by
  simp [exec, execSread, noPayload_of_nil hp, h, raise]

/-- Settles O22: the four registers one by one, and no register above 3. -/
theorem sreadRepliesTheNamedRegister : Obligations.SreadRepliesTheNamedRegister := by
  intro n s hp
  refine ⟨fun hn => ?_, fun hn => ⟨_, execSread_of_none hp (csr_eq_none hn), ?_⟩⟩
  · obtain ⟨v, hv⟩ := csr_isSome (s := s) hn
    refine ⟨_, v, execSread_of_some hp hv, ?_, ?_⟩
    · rw [← be32_eq_extractLsb']
      exact repliedOnly_replied s _
    · interval_cases n <;> cases hv
      · simpa using csrStatus_fields s
      · simpa using csrKeyinfo_values s
      · simp
      · simpa using csrEdim_fields s
  · exact failedWith_raised s .indexRange (by decide) (by decide)

end Sys2Proof.Machine
end

section
/-! PROOFS. The byte orders of a command and of a block, and the independence of the blocks of a message (20_memory.md R53 to
R58, R64). -/

namespace Sys2Proof.Machine

/-! ### Command bytes (R58) -/

/-- Settles O5, from the bytes of a 32-bit number and their round trip. -/
theorem commandBytesAreMostSignificantFirst : Obligations.CommandBytesAreMostSignificantFirst := by
  refine fun cw payload => ⟨?_, ofBe32_be32 cw payload⟩
  rw [commandBytes, be32_eq_extractLsb']
  rfl

/-! ### Wire order and row-major order of a block (R53, R54, R55) -/

/-- Two sequences of 16 bytes are equal when they agree at every place `r + 4*c` of the wire order. -/
theorem wireBytes_ext {a b : List Byte} (ha : a.length = 16) (hb : b.length = 16)
    (h : ∀ r c : Fin 4, a[r.val + 4 * c.val]? = b[r.val + 4 * c.val]?) : a = b := by
  refine List.ext_getElem? fun i => ?_
  by_cases hi : i < 16
  · have hplace := h ⟨i % 4, by omega⟩ ⟨i / 4, by omega⟩
    rwa [Nat.mod_add_div] at hplace
  · rw [List.getElem?_eq_none (by omega), List.getElem?_eq_none (by omega)]

theorem fromWire_eq_transposed_fromRm (b : List Byte) : fromWire b = transposed (fromRm b 4 4) :=
  mat_ext fun r c => by rw [fromWire_get, transposed_get, fromRm_get, Nat.add_comm]

theorem wire_eq_flat_transposed (S : Block) : wire S = flat (transposed S) := by
  refine wireBytes_ext (wire_length S) (flat_length _) fun r c => ?_
  rw [wire_get, Nat.add_comm, flat_block_get, transposed_get]

theorem transposed_transposed {m n : Nat} (A : Mat m n) : transposed (transposed A) = A :=
  mat_ext fun r c => by rw [transposed_get, transposed_get]

theorem fromRm_flat (S : Block) : fromRm (flat S) 4 4 = S :=
  mat_ext fun r c => by
    rw [fromRm_get, List.getD_eq_getElem?_getD, flat_block_get, Option.getD_some]

theorem fromWire_wire (S : Block) : fromWire (wire S) = S := by
  rw [fromWire_eq_transposed_fromRm, wire_eq_flat_transposed, fromRm_flat, transposed_transposed]

theorem wire_fromWire {b : List Byte} (h : b.length = 16) : wire (fromWire b) = b := by
  refine wireBytes_ext (wire_length _) h fun r c => ?_
  have hplace : r.val + 4 * c.val < b.length := by omega
  rw [wire_get, fromWire_get, List.getD_eq_getElem _ _ hplace, List.getElem?_eq_getElem hplace]

theorem flat_fromRm {b : List Byte} (h : b.length = 16) : flat (fromRm b 4 4) = b := by
  rw [← transposed_transposed (fromRm b 4 4), ← wire_eq_flat_transposed, ← fromWire_eq_transposed_fromRm, wire_fromWire h]

/-- Settles O56: the bridge byte by byte, and the row-major round trips carried over it. -/
theorem wireOrderIsTheTransposeOfRowMajor : Obligations.WireOrderIsTheTransposeOfRowMajor :=
  ⟨fromWire_eq_transposed_fromRm, wire_eq_flat_transposed, fun S => ⟨fromWire_wire S, fromRm_flat S⟩,
    fun _ h => ⟨wire_fromWire h, flat_fromRm h⟩⟩

/-! ### Blocks of a message (R57, R64, R187 (a)) -/

theorem messageBlock_append_left {X : List Byte} {i : Nat} (Y : List Byte) (h : 16 * i + 16 ≤ X.length) :
    messageBlock (X ++ Y) i = messageBlock X i := by
  rw [messageBlock, messageBlock, List.drop_append_of_le_length (by omega),
    List.take_append_of_le_length (by rw [List.length_drop]; omega)]

theorem messageBlock_append_right {X : List Byte} {n : Nat} (Y : List Byte) (i : Nat) (h : X.length = 16 * n) :
    messageBlock (X ++ Y) (n + i) = messageBlock Y i := by
  rw [messageBlock, messageBlock, Nat.mul_add, ← h, List.drop_length_add_append]

/-- A message of whole blocks in front of another: the blocks of the one, then those of the other. -/
theorem encryptMessage_append (rk : Nat → Block) (nRounds : Nat) {X : List Byte} (Y : List Byte)
    (hX : X.length % 16 = 0) :
    encryptMessage rk nRounds (X ++ Y) = encryptMessage rk nRounds X ++ encryptMessage rk nRounds Y := by
  obtain ⟨n, hn⟩ : 16 ∣ X.length := Nat.dvd_of_mod_eq_zero hX
  have hblocks : (X ++ Y).length / 16 = n + Y.length / 16 := by
    rw [List.length_append]
    omega
  have hXblocks : X.length / 16 = n := by omega
  rw [encryptMessage, encryptMessage, encryptMessage, hblocks, hXblocks, List.range_add, List.flatMap_append,
    List.flatMap_map]
  congr 1
  · refine List.flatMap_congr fun i hi => ?_
    have hi' : i < n := List.mem_range.mp hi
    rw [cipherBlock, cipherBlock, messageBlock_append_left Y (by omega)]
  · refine List.flatMap_congr fun i _ => ?_
    rw [cipherBlock, cipherBlock, messageBlock_append_right Y i hn]

theorem expand_of_legal {key : List Byte} (h : KeyLengthLegal key.length) : ∃ blocks, expand key = .ok blocks := by
  rcases h with h | h | h <;> exact ⟨_, by simp only [expand, keyParams, h]; rfl⟩

theorem encrypt_of_expand {msg key : List Byte} {blocks : List (List Byte)} (hk : expand key = .ok blocks)
    (hm : msg.length % 16 = 0) :
    encrypt msg key = .ok (encryptMessage (blocksRk blocks) (blocks.length - 1) msg) := by
  simp [encrypt, hk, hm]

/-- An order that reaches every block of the message gives the ciphertext of the message: the finished block found under an
index is the one made at that index (R64). -/
theorem encryptInOrder_eq_encryptMessage (rk : Nat → Block) (nRounds : Nat) {msg : List Byte} {order : List Nat}
    (h : ∀ i < msg.length / 16, i ∈ order) : encryptInOrder rk nRounds msg order = encryptMessage rk nRounds msg := by
  refine List.flatMap_congr fun i hi => ?_
  rw [List.lookup_graph _ (h i (List.mem_range.mp hi)), Option.getD_some]

/-- Settles O58: both messages and their concatenation are encrypted under one schedule, and a permutation of the block
indexes reaches every block. -/
theorem blocksAreIndependent : Obligations.BlocksAreIndependent := by
  refine ⟨fun X Y key hX hY hkey => ?_, fun rk nRounds msg order hperm => ?_⟩
  · obtain ⟨blocks, hblocks⟩ := expand_of_legal hkey
    have hXY : (X ++ Y).length % 16 = 0 := by
      rw [List.length_append]
      omega
    refine ⟨_, _, encrypt_of_expand hblocks hX, encrypt_of_expand hblocks hY, ?_⟩
    rw [encrypt_of_expand hblocks hXY, encryptMessage_append _ _ Y hX]
  · exact encryptInOrder_eq_encryptMessage rk nRounds fun i hi => hperm.mem_iff.mpr (List.mem_range.mpr hi)

end Sys2Proof.Machine
end

section
/-! PROOFS. The opcode map read in both directions: which words a row takes, by its columns and by its masked bits, and that a
row's command has the row's fields (30_encoding.md R71 to R75). -/

namespace Sys2Proof

/-! ### A word and its fields (R71) -/

/-- Packing the fields of a word gives the word back. -/
theorem commandWord_fieldsOf (cw : CommandWord) : commandWord (fieldsOf cw) = cw := by
  have hlt := cw.isLt
  refine BitVec.eq_of_toNat_eq ?_
  simp only [commandWord, fieldsOf, twoBits, bitSlice, Fin.ofNat, BitVec.toNat_ofNat]
  omega

theorem fieldsOf_injective : Function.Injective fieldsOf :=
  Function.LeftInverse.injective commandWord_fieldsOf

theorem fieldsOf_opc_lt (cw : CommandWord) : (fieldsOf cw).opc < 2 ^ 8 := Nat.mod_lt _ (by decide)

theorem fieldsOf_imm_lt (cw : CommandWord) : (fieldsOf cw).imm < 2 ^ 16 := Nat.mod_lt _ (by decide)

theorem fieldsOf_opc (cw : CommandWord) : (fieldsOf cw).opc = (cw.extractLsb' 24 8).toNat := by
  simp [fieldsOf, bitSlice, Nat.shiftRight_eq_div_pow]

theorem fieldsOf_fn_val (cw : CommandWord) : (fieldsOf cw).fn.val = (cw.extractLsb' 16 2).toNat := by
  simp [fieldsOf, twoBits, bitSlice, Nat.shiftRight_eq_div_pow]

theorem bitSlice_and (v w : CommandWord) (hi lo : Nat) :
    bitSlice (v &&& w) hi lo = bitSlice v hi lo &&& bitSlice w hi lo := by
  simp only [bitSlice, BitVec.toNat_and, Nat.and_div_two_pow, Nat.and_mod_two_pow]

theorem twoBits_and (v w : CommandWord) (lo : Nat) : twoBits (v &&& w) lo = twoBits v lo &&& twoBits w lo := by
  refine Fin.ext ?_
  have h : ∀ a b : Nat, (a &&& b) % 4 = a % 4 &&& b % 4 := fun a b => Nat.and_mod_two_pow (n := 2)
  simp only [twoBits, bitSlice_and, Fin.ofNat, Fin.and_val, h]

/-- The bits two sets of field values have in common, field by field. -/
def Fields.and (f g : Fields) : Fields :=
  ⟨f.opc &&& g.opc, f.md &&& g.md, f.ma &&& g.ma, f.mb &&& g.mb, f.fn &&& g.fn, f.imm &&& g.imm⟩

theorem fieldsOf_and (v w : CommandWord) : fieldsOf (v &&& w) = (fieldsOf v).and (fieldsOf w) := by
  simp only [fieldsOf, Fields.and, bitSlice_and, twoBits_and]

/-- Field values are equal when they agree in all six fields. -/
theorem Fields.eq_iff {f g : Fields} :
    f = g ↔ f.opc = g.opc ∧ f.md = g.md ∧ f.ma = g.ma ∧ f.mb = g.mb ∧ f.fn = g.fn ∧ f.imm = g.imm := by
  cases f
  cases g
  rw [Fields.mk.injEq]

/-! ### The row of a word -/

/-- The row has the `opc` of the fields, and its other columns allow them (R72, R75). -/
def OpRow.Allows (row : OpRow) (f : Fields) : Prop :=
  f.opc = row.opc ∧ row.unusedZero f = true ∧ row.fnLegal f.fn = true

theorem OpRow.read_eq_ok_iff (row : OpRow) (f : Fields) (i : Instr) :
    row.read f = .ok i ↔ (row.unusedZero f = true ∧ row.fnLegal f.fn = true) ∧ row.build f = i := by
  unfold OpRow.read
  split_ifs with hz hf <;> simp [*]

/-- No two rows have the same `opc` (R74). -/
theorem opcodes_nodup : (opcodeTable.map OpRow.opc).Nodup := by decide

theorem opcodeTable_find?_eq_some_iff (opc : Nat) (row : OpRow) :
    opcodeTable.find? (fun r => r.opc == opc) = some row ↔ row ∈ opcodeTable ∧ opc = row.opc := by
  have hfound : ∀ r, opcodeTable.find? (fun r => r.opc == opc) = some r → r ∈ opcodeTable ∧ opc = r.opc := fun r h => by
    have hbeq := List.find?_some h
    exact ⟨List.mem_of_find?_eq_some h, (beq_iff_eq.mp hbeq).symm⟩
  refine ⟨hfound row, fun ⟨hmem, hopc⟩ => ?_⟩
  obtain ⟨row', hrow'⟩ : ∃ row', opcodeTable.find? (fun r => r.opc == opc) = some row' :=
    Option.isSome_iff_exists.mp (List.find?_isSome.mpr ⟨row, hmem, beq_iff_eq.mpr hopc.symm⟩)
  obtain ⟨hmem', hopc'⟩ := hfound row' hrow'
  rw [hrow', List.inj_on_of_nodup_map opcodes_nodup hmem' hmem (hopc'.symm.trans hopc)]

/-- Six field values spell a command exactly when a row allows them, and the command is the one the row builds (R74). -/
theorem decodeFields_eq_ok_iff (f : Fields) (i : Instr) :
    decodeFields f = .ok i ↔ ∃ row ∈ opcodeTable, row.Allows f ∧ row.build f = i := by
  have hfind : decodeFields f = .ok i ↔
      ∃ row, opcodeTable.find? (fun r => r.opc == f.opc) = some row ∧ row.read f = .ok i := by
    unfold decodeFields
    cases opcodeTable.find? (fun r => r.opc == f.opc) <;> simp
  simp only [hfind, opcodeTable_find?_eq_some_iff, OpRow.read_eq_ok_iff, OpRow.Allows, and_assoc]

theorem mulFnOf_code (fn : Fin 4) (h : fn.val < 2) : (mulFnOf fn).code = fn := by
  revert fn
  decide

/-- The command a row builds has the fields it was built from (R71, R72): a field the row uses is an operand, and one it does
not use is zero. -/
theorem fields_build : ∀ row ∈ opcodeTable, ∀ f : Fields, row.Allows f → (row.build f).fields = f := by
  simp only [opcodeTable, rowsSystem, rowsMatrix, rowsSbox, rowsKey, rowsRound, List.forall_mem_append, List.forall_mem_cons,
    List.not_mem_nil, false_imp_iff, implies_true, and_true]
  -- row by row: every field of the command is an operand read from `f` or the zero that the row requires of `f`
  simp +contextual [OpRow.Allows, OpRow.unusedZero, OpRow.fnLegal, Instr.fields, Fields.eq_iff, mulFnOf_code, MapFn.code]

/-! ### Masked bits (R74) -/

/-- The bits of a register field that a row's mask keeps: none where the row uses the field, else all. -/
def regCareBits (used : Bool) : Fin 4 := if used then 0 else 3

/-- The bits of `fn` that a row's mask keeps: those that are zero in every legal value. -/
def FnUse.careBits : FnUse → Fin 4
  | .unused => 3
  | .selects legal => if legal = 1 then 3 else 2
  | .amount => 0

/-- The fields of the column "mask" of R74, from the columns that say what the row uses. -/
def OpRow.maskFields (row : OpRow) : Fields :=
  ⟨0xFF, regCareBits row.usesMd, regCareBits row.usesMa, regCareBits row.usesMb, row.fnUse.careBits,
    if row.usesImm then 0 else 0xFFFF⟩

theorem fieldsOf_mask : ∀ row ∈ opcodeTable, fieldsOf row.mask = row.maskFields := by decide

theorem fieldsOf_matchBits : ∀ row ∈ opcodeTable, fieldsOf row.matchBits = ⟨row.opc, 0, 0, 0, 0, 0⟩ := by decide

theorem and_regCareBits_eq_zero_iff : ∀ (used : Bool) (x : Fin 4), x &&& regCareBits used = 0 ↔ (used || x == 0) = true := by
  decide

theorem fn_and_careBits_eq_zero_iff :
    ∀ row ∈ opcodeTable, ∀ fn : Fin 4, fn &&& row.fnUse.careBits = 0 ↔ row.fnLegal fn = true := by decide

theorem imm_and_care_eq_zero_iff (used : Bool) {imm : Nat} (h : imm < 2 ^ 16) :
    imm &&& (if used then 0 else 0xFFFF) = 0 ↔ (used || imm == 0) = true := by
  have hand : imm &&& 0xFFFF = imm := Nat.and_two_pow_sub_one_of_lt_two_pow h
  cases used <;> simp [hand]

/-- The masked bits of a word are the row's exactly when the row allows the word's fields. -/
theorem masked_eq_matchBits_iff {row : OpRow} (hrow : row ∈ opcodeTable) (cw : CommandWord) :
    cw &&& row.mask = row.matchBits ↔ row.Allows (fieldsOf cw) := by
  have hopc : (fieldsOf cw).opc &&& 0xFF = (fieldsOf cw).opc := Nat.and_two_pow_sub_one_of_lt_two_pow (fieldsOf_opc_lt cw)
  rw [← fieldsOf_injective.eq_iff, fieldsOf_and, fieldsOf_mask row hrow, fieldsOf_matchBits row hrow]
  simp only [Fields.and, OpRow.maskFields, Fields.mk.injEq, OpRow.Allows, OpRow.unusedZero, Bool.and_eq_true,
    and_regCareBits_eq_zero_iff, fn_and_careBits_eq_zero_iff row hrow, imm_and_care_eq_zero_iff _ (fieldsOf_imm_lt cw), hopc]
  tauto

/-! ### The statements about command words -/

theorem decode_eq_ok_iff (cw : CommandWord) (i : Instr) :
    decode cw = .ok i ↔ ∃ row ∈ opcodeTable, row.Allows (fieldsOf cw) ∧ row.build (fieldsOf cw) = i :=
  decodeFields_eq_ok_iff (fieldsOf cw) i

theorem wellFormed_iff_fields_imm_lt (i : Instr) : i.WellFormed ↔ i.fields.imm < 2 ^ Config.immBits := by
  cases i <;> exact Iff.rfl

theorem fields_of_decode {cw : CommandWord} {i : Instr} (h : decode cw = .ok i) : i.fields = fieldsOf cw := by
  obtain ⟨row, hrow, hallows, rfl⟩ := (decode_eq_ok_iff cw i).mp h
  exact fields_build row hrow _ hallows

/-- Settles O2: the row with the command's opcode reads back the six fields packed in the word. -/
theorem decodeOfEncode : Obligations.DecodeOfEncode := fun _ h => Machine.decode_encode h

/-- Settles O3: the command has the word's fields, and six fields make one word. -/
theorem encodeOfDecode : Obligations.EncodeOfDecode := by
  intro cw i h
  have hfields := fields_of_decode h
  refine ⟨(wellFormed_iff_fields_imm_lt i).mpr ?_, ?_⟩
  · rw [hfields]
    exact fieldsOf_imm_lt cw
  · rw [encode, hfields, commandWord_fieldsOf]

/-- Settles O4: the masked bits of a word are a row's exactly when the row allows the word's fields, its `opc` among them, and
no two rows have the same `opc`. -/
theorem wordSpellsARowExactlyWhenItsMaskedBitsMatch : Obligations.WordSpellsARowExactlyWhenItsMaskedBitsMatch := by
  refine ⟨fun cw row hrow hbits => ?_, fun cw i h => ?_, ?_⟩
  · exact (decode_eq_ok_iff cw _).mpr ⟨row, hrow, (masked_eq_matchBits_iff hrow cw).mp hbits, rfl⟩
  · obtain ⟨row, hrow, hallows, hbuild⟩ := (decode_eq_ok_iff cw i).mp h
    exact ⟨row, hrow, (masked_eq_matchBits_iff hrow cw).mpr hallows, hbuild.symm⟩
  · refine (List.pairwise_map.mp opcodes_nodup).imp_of_mem fun {a b} ha hb hne cw ⟨hbitsa, hbitsb⟩ => hne ?_
    obtain ⟨hopca, -⟩ := (masked_eq_matchBits_iff ha cw).mp hbitsa
    obtain ⟨hopcb, -⟩ := (masked_eq_matchBits_iff hb cw).mp hbitsb
    exact hopca.symm.trans hopcb

/-- Settles O1. -/
theorem wordsDecodeAsTheSpecWritesThem : Obligations.WordsDecodeAsTheSpecWritesThem := by
  unfold Obligations.WordsDecodeAsTheSpecWritesThem
  decide

/-! ### Words that spell no command (R75) -/

/-- A word spells a command only if some row has its opcode byte and takes its `fn`. -/
theorem row_of_decode {cw : CommandWord} {i : Instr} (h : decode cw = .ok i) :
    ∃ row ∈ opcodeTable, row.opc = (cw.extractLsb' 24 8).toNat ∧ row.fnLegal (fieldsOf cw).fn = true := by
  obtain ⟨row, hrow, ⟨hopc, -, hfn⟩, -⟩ := (decode_eq_ok_iff cw i).mp h
  exact ⟨row, hrow, hopc.symm.trans (fieldsOf_opc cw), hfn⟩

/-- A row that selects among functions takes no `fn` above them. -/
theorem decode_ne_ok_of_reserved {cw : CommandWord} {opc legal : Nat}
    (hrow : ∀ row ∈ opcodeTable, row.opc = opc → row.fnUse = .selects legal)
    (hopc : (cw.extractLsb' 24 8).toNat = opc) (hfn : legal ≤ (cw.extractLsb' 16 2).toNat) (i : Instr) :
    decode cw ≠ .ok i := by
  intro h
  obtain ⟨row, hmem, hrowopc, hlegal⟩ := row_of_decode h
  have huse := hrow row hmem (hrowopc.trans hopc)
  simp only [OpRow.fnLegal, huse, decide_eq_true_eq, fieldsOf_fn_val] at hlegal
  omega

end Sys2Proof
end

section
/-! PROOFS. How a presented command is answered, legal or not, and the words and payloads that are rejected (30_encoding.md
R70, R75, R77). -/

namespace Sys2Proof.Machine

/-! ### The answer of a command -/

theorem exec_of_firstError {i : Instr} {s : State} {e : CmdError} (h : firstError s i = some e) :
    exec i s = .next ((failureState s i).raised e) := by
  rcases exec_ends i s with ⟨e', he', hr⟩ | ⟨hnone, -⟩
  · rw [firstError_eq_firstCause, he', Option.some.injEq] at h
    rw [hr, h]
  · rw [firstError_eq_firstCause, hnone] at h
    cases h

theorem exec_of_no_error {i : Instr} {s : State} (h : firstError s i = none) :
    ∃ u bytes, Writes s i u ∧ exec i s = .next (u.replied bytes) := by
  rcases exec_ends i s with ⟨e, he, -⟩ | ⟨-, hreply⟩
  · rw [firstError_eq_firstCause, he] at h
    cases h
  · exact hreply

theorem host_of_writes {i : Instr} {s u : State} (h : Writes s i u) : u.host = s.host := by
  cases h <;> simp

theorem host_failureState (s : State) (i : Instr) : (failureState s i).host = s.host := by
  cases i <;> rfl

/-- An answer: a response with a code 0 to 7 and a payload only with code `OK` (R77), the command's own payload gone, and the
host's further actions left (R70). -/
def Answers (rest : List HostEvent) (t : State) : Prop :=
  ∃ r, t.response = some r ∧ r.code.toNat ≤ 7 ∧ (r.code ≠ 0 → r.payload = []) ∧ t.payload = [] ∧ t.host = rest

theorem answers_raised (s : State) (e : CmdError) : Answers s.host (s.raised e) := by
  refine ⟨errorResponse e, rfl, ?_, fun _ => rfl, rfl, rfl⟩
  have hle := code_le e
  simp only [errorResponse, BitVec.toNat_ofNat]
  omega

theorem answers_replied (s : State) (bytes : List Byte) : Answers s.host (s.replied bytes) :=
  ⟨okResponse bytes, rfl, Nat.zero_le _, fun hne => absurd rfl hne, rfl, rfl⟩

/-- Every command answers (R225): by its first error, or by a reply. -/
theorem exec_answers (i : Instr) (s : State) : ∃ t, exec i s = .next t ∧ Answers s.host t := by
  cases h : firstError s i with
  | some e => exact ⟨_, exec_of_firstError h, host_failureState s i ▸ answers_raised _ e⟩
  | none =>
    obtain ⟨u, bytes, hw, hexec⟩ := exec_of_no_error h
    exact ⟨_, hexec, host_of_writes hw ▸ answers_replied u bytes⟩

/-- Settles O10: a word that spells no command raises `IllegalCommand`, and a command answers for itself. -/
theorem everyPresentedCommandIsAnswered : Obligations.EveryPresentedCommandIsAnswered := by
  intro s cw payload rest hhost
  suffices h : ∃ t, step s = .next t ∧ Answers rest t by
    obtain ⟨t, hstep, r, hanswer⟩ := h
    exact ⟨t, r, hstep, hanswer⟩
  cases hd : decode cw with
  | error e => exact ⟨_, step_illegal hhost hd, answers_raised (s.accept payload rest) .illegalCommand⟩
  | ok i =>
    rw [step_command hhost hd]
    exact exec_answers i (s.accept payload rest)

/-! ### Rejected words and payloads -/

/-- The first condition of a command that takes no payload is that there is one (R75, R219). -/
theorem firstError_of_payload {i : Instr} {s : State} (h : TakesNoPayload i) (hp : s.payload ≠ []) :
    firstError s i = some .illegalCommand := by
  obtain ⟨causes, hcauses⟩ : ∃ causes, errorCauses s i = (s.payload.length != 0, .illegalCommand) :: causes := by
    cases i with
    | mload | mrowld | subbyte | gfmul | keyload | rotword | subword | blkload | encrypt => exact h.elim
    | _ => exact ⟨_, rfl⟩
  have hlen : (s.payload.length != 0) = true := by simpa using hp
  rw [firstError, hcauses, hlen]
  rfl

theorem failureState_of_takesNoPayload {i : Instr} (s : State) (h : TakesNoPayload i) : failureState s i = s := by
  cases i with
  | keyload => exact h.elim
  | _ => rfl

/-- Settles O8: a rejected word raises `IllegalCommand` in the step; the words with a foreign opcode or a reserved function
have no row; and a command without payload has the payload as its first condition. -/
theorem illegalCommandsAreRejected : Obligations.IllegalCommandsAreRejected := by
  refine ⟨fun s cw payload rest hhost hd => ?_, fun cw hopc i hd => ?_, fun cw hopc hfn => ?_, fun cw hopc hfn => ?_,
    fun i s h hp => ?_⟩
  · cases hdec : decode cw with
    | ok i => exact absurd hdec (hd i)
    | error e =>
      exact ⟨_, step_illegal hhost hdec,
        failedWith_raised (s.accept payload rest) .illegalCommand (by decide) (by decide)⟩
  · obtain ⟨row, hrow, hrowopc, -⟩ := row_of_decode hd
    exact hopc row hrow hrowopc
  · exact decode_ne_ok_of_reserved (legal := 2) (by decide) (congrArg BitVec.toNat hopc) hfn
  · refine decode_ne_ok_of_reserved (legal := 1) (by decide) (congrArg BitVec.toNat hopc) ?_
    exact Nat.one_le_iff_ne_zero.mpr fun h0 => hfn (BitVec.eq_of_toNat_eq h0)
  · refine ⟨_, exec_of_firstError (firstError_of_payload h hp), ?_⟩
    rw [failureState_of_takesNoPayload s h]
    exact failedWith_raised s .illegalCommand (by decide) (by decide)

end Sys2Proof.Machine
end

section
/-! PROOFS. Command sequences (30_encoding.md R79): what issuing a command runs, and the transforms as matrix commands. -/

namespace Sys2Proof.Machine

/-! ### Issuing commands (R62, R79) -/

theorem wellFormed_of_imm_eq_zero {i : Instr} (h : i.imm = 0) : i.WellFormed := by
  rw [Instr.WellFormed, h]
  exact Nat.two_pow_pos _

/-- Issuing a well-formed command runs it with its payload on the channel, the host's further actions as they were. -/
theorem issue_eq_exec {i : Instr} (h : i.WellFormed) (s : State) (payload : List Byte) :
    s.issue i payload = exec i (s.accept payload s.host) :=
  step_command (State.presentFirst_host s (encode i) payload) (decode_encode h)

/-- A sequence goes on after a command that replies. -/
theorem runMacro_cons_of_replied {i : Instr} {payload bytes : List Byte} {s u : State}
    (rest : List (Instr × List Byte)) (h : i.WellFormed)
    (hexec : exec i (s.accept payload s.host) = .next (u.replied bytes)) :
    runMacro ((i, payload) :: rest) s =
      ((runMacro rest (u.replied bytes)).1, okResponse bytes :: (runMacro rest (u.replied bytes)).2) := by
  simp [runMacro, issue_eq_exec h, hexec, okResponse]

theorem errorResponse_code_ne_zero (e : CmdError) : (errorResponse e).code ≠ 0#8 := by
  cases e <;> simp [errorResponse, CmdError.code]

/-- A sequence ends with the first command that fails. -/
theorem runMacro_cons_of_raised {i : Instr} {payload : List Byte} {s u : State} {e : CmdError}
    (rest : List (Instr × List Byte)) (h : i.WellFormed)
    (hexec : exec i (s.accept payload s.host) = .next (u.raised e)) :
    runMacro ((i, payload) :: rest) s = (u.raised e, [errorResponse e]) := by
  simp [runMacro, issue_eq_exec h, hexec, errorResponse_code_ne_zero]

theorem accept_of_nil {s : State} (h : s.payload = []) : s.accept [] s.host = s := by
  rw [← h]
  rfl

/-! ### Updates one after another -/

theorem writeM_writeM (s : State) (i : MReg) (u v : Block) : (s.writeM i u).writeM i v = s.writeM i v := by
  simp [State.writeM]

theorem writeM_replied (s : State) (i : MReg) (v : Block) (bytes : List Byte) :
    (s.replied bytes).writeM i v = (s.writeM i v).replied bytes := rfl

theorem replied_replied (s : State) (bytes bytes' : List Byte) : (s.replied bytes).replied bytes' = s.replied bytes' := rfl

/-! ### ShiftRows, row by row -/

/-- Row `r` of a block rotated left by `r` positions, as `MROWROL md, r, r` does it (R79, R109). -/
def rotateRow (r : Fin 4) (S : Block) : Block := rowSet S r (rowRotl (rowGet S r) r.val)

theorem rotateRow_get (S : Block) (i r c : Fin 4) :
    (rotateRow i S)[r][c] = if r = i then S[r][c + r] else S[r][c] := by
  by_cases h : r = i
  · subst h
    rw [if_pos rfl, rotateRow, rowSet_get_same, rowRotl_get]
    simp [rowGet, Fin.val_add]
  · simp only [rotateRow, rowSet_get_ne S _ h, if_neg h]

/-- ShiftRows leaves row 0 and rotates the three other rows (R172). -/
theorem rotateRow_rows_eq_shiftRows (S : Block) : rotateRow 3 (rotateRow 2 (rotateRow 1 S)) = shiftRows S := by
  refine mat_ext fun r c => ?_
  simp only [shiftRows_get, rotateRow_get]
  fin_cases r <;> simp

/-! ### What the commands of the sequences write -/

theorem execShiftrows_of_nil {s : State} (md : MReg) (h : s.payload = []) :
    exec (.shiftrows md) s = .next ((s.writeM md (shiftRows (s.readM md))).replied []) :=
  noPayload_of_nil h _

theorem execMixcolumns_of_nil {s : State} (md : MReg) (h : s.payload = []) :
    exec (.mixcolumns md) s = .next ((s.writeM md (mixColumns (s.readM md))).replied []) :=
  noPayload_of_nil h _

theorem execMrowrol_of_nil {s : State} (md : MReg) (r : Fin 4) (h : s.payload = []) :
    exec (.mrowrol md r r) s = .next ((s.writeM md (rotateRow r (s.readM md))).replied []) :=
  noPayload_of_nil h _

theorem execMload_of_block {s : State} (md : MReg) (h : s.payload.length = 16) :
    exec (.mload md) s = .next ((s.writeM md (fromRm s.payload 4 4)).replied []) :=
  shapedPayload_of_eq h _

theorem execMmul_of_nil {s : State} (md ma mb : MReg) (fn : MulFn) (h : s.payload = []) :
    exec (.mmul md ma mb fn) s =
      .next ((s.writeM md (matMul (s.readM ma) (s.readM mb) (mulFnOp fn) (addFnOp fn))).replied []) :=
  noPayload_of_nil h _

theorem execMzero_of_nil {s : State} (md : MReg) (h : s.payload = []) :
    exec (.mzero md) s = .next ((s.writeM md (matNew 4 4)).replied []) :=
  noPayload_of_nil h _

theorem execMxor_of_nil {s : State} (md ma mb : MReg) (h : s.payload = []) :
    exec (.mxor md ma mb) s = .next ((s.writeM md (matXor (s.readM ma) (s.readM mb))).replied []) :=
  noPayload_of_nil h _

/-! ### The transforms as matrix commands (R79) -/

/-- `SUBBYTES` and `MMAP` with the S-box are one function of the state (R97, R171). -/
theorem exec_subbytes_eq_mmap (md : MReg) (s : State) : exec (.subbytes md) s = exec (.mmap md md .sbox) s := rfl

/-- The three rotations of R79 leave the state that `SHIFTROWS` leaves. -/
theorem runMacro_rotations (md : MReg) {s : State} (h : s.payload = []) :
    (runMacro [(.mrowrol md 1 1, []), (.mrowrol md 2 2, []), (.mrowrol md 3 3, [])] s).1 =
      (s.writeM md (shiftRows (s.readM md))).replied [] := by
  have hrotate : ∀ {u : State} (r : Fin 4), u.payload = [] → exec (.mrowrol md r r) (u.accept [] u.host) =
      .next ((u.writeM md (rotateRow r (u.readM md))).replied []) := fun {u} r hu => by
    rw [accept_of_nil hu, execMrowrol_of_nil md r hu]
  rw [runMacro_cons_of_replied _ (wellFormed_of_imm_eq_zero rfl) (hrotate 1 h),
    runMacro_cons_of_replied _ (wellFormed_of_imm_eq_zero rfl) (hrotate 2 rfl),
    runMacro_cons_of_replied _ (wellFormed_of_imm_eq_zero rfl) (hrotate 3 rfl)]
  simp only [runMacro, writeM_replied, replied_replied, writeM_writeM, State.replied_readM, readM_writeM_same,
    rotateRow_rows_eq_shiftRows]

/-- `MMIX mx` and the product with `mx` on the left leave the mixed columns in `md` (R79, R173). -/
theorem runMacro_mmix_mmul_readM {md mx : MReg} (hne : mx ≠ md) (s : State) :
    (runMacro (macroMmix mx ++ [(.mmul md mx md .gf, [])]) s).1.readM md = mixColumns (s.readM md) := by
  rw [macroMmix, List.singleton_append,
    runMacro_cons_of_replied _ (wellFormed_of_imm_eq_zero rfl) (execMload_of_block mx rfl),
    runMacro_cons_of_replied _ (wellFormed_of_imm_eq_zero rfl) (execMmul_of_nil md mx md .gf rfl)]
  simp [runMacro, readM_writeM_ne _ _ hne.symm, mixColumns, mix]

theorem matXor_matNew_left {m n : Nat} (A : Mat m n) : matXor (matNew m n) A = A :=
  mat_ext fun r c => by
    rw [matXor_get, matNew_get]
    exact BitVec.zero_xor

/-- `MCOPY md, ma` leaves in `md` what `ma` held (R79). -/
theorem runMacro_mcopy_readM {md ma : MReg} (hne : md ≠ ma) (s : State) :
    (runMacro (macroMcopy md ma) s).1.readM md = s.readM ma := by
  rw [macroMcopy, runMacro_cons_of_replied _ (wellFormed_of_imm_eq_zero rfl) (execMzero_of_nil md rfl),
    runMacro_cons_of_replied _ (wellFormed_of_imm_eq_zero rfl) (execMxor_of_nil md md ma rfl)]
  simp [runMacro, readM_writeM_ne _ _ hne.symm, matXor_matNew_left]

/-- Settles O59: `SUBBYTES` and `SHIFTROWS` give the state of their matrix form, `MIXCOLUMNS` and `MCOPY` the register. -/
theorem transformsEqualTheirMatrixForms : Obligations.TransformsEqualTheirMatrixForms := by
  intro md s hp
  refine ⟨exec_subbytes_eq_mmap md s, ⟨_, execShiftrows_of_nil md hp, runMacro_rotations md hp⟩, fun mx hne => ?_,
    fun ma hne => runMacro_mcopy_readM hne s⟩
  refine ⟨_, execMixcolumns_of_nil md hp, ?_⟩
  rw [runMacro_mmix_mmul_readM hne, State.replied_readM, readM_writeM_same]

end Sys2Proof.Machine
end

section
/-! PROOFS. The command sequence `ENCRYPT_CALL` and the operation `encrypt` (30_encoding.md R79; 43_round_pipeline.md R185). -/

namespace Sys2Proof.Machine

/-! ### Round keys and the ciphertext (R175, R185) -/

/-- Only the round keys up to the number of rounds matter (R175). -/
theorem roundFn_congr {rk rk' : Nat → Block} {nRounds : Nat} (h : ∀ k ≤ nRounds, rk k = rk' k) :
    roundFn rk nRounds = roundFn rk' nRounds := by
  funext r S
  unfold roundFn
  split_ifs with h0 hr
  · rw [h 0 (Nat.zero_le _)]
  · rw [h r hr.le]
  · rw [h nRounds le_rfl]

theorem encryptMessage_congr {rk rk' : Nat → Block} {nRounds : Nat} (h : ∀ k ≤ nRounds, rk k = rk' k) :
    encryptMessage rk nRounds = encryptMessage rk' nRounds := by
  have hblock : cipherBlock rk nRounds = cipherBlock rk' nRounds := by
    funext msg i
    simp only [cipherBlock, encryptBlock, roundFn_congr h]
  funext msg
  simp only [encryptMessage, hblock]

/-! ### A held key and its schedule -/

theorem sameKeyState_replied (s : State) (bytes : List Byte) : SameKeyState s (s.replied bytes) := ⟨rfl, rfl, rfl, rfl, rfl⟩

theorem sameKeyState_accept (s : State) (payload : List Byte) (rest : List HostEvent) :
    SameKeyState s (s.accept payload rest) := ⟨rfl, rfl, rfl, rfl, rfl⟩

/-- The key `key` is held (R24, R29 (a), (b)). -/
structure HoldsKey (s : State) (key : List Byte) : Prop where
  keyOk : s.keyOk = true
  legal : KeyLengthLegal s.klen.toNat
  keyHeld : s.keyBytes = key

theorem HoldsKey.congr {s t : State} {key : List Byte} (h : HoldsKey s key) (hst : SameKeyState s t) : HoldsKey t key := by
  have hbytes := keyBytes_congr hst
  obtain ⟨-, hlen, -, hkeyOk, -⟩ := hst
  exact ⟨hkeyOk ▸ h.keyOk, hlen ▸ h.legal, hbytes ▸ h.keyHeld⟩

/-- The key `key` and its schedule are held (R29 (c), (d)). -/
structure HoldsSchedule (s : State) (key : List Byte) : Prop extends HoldsKey s key where
  rkOk : s.rkOk = true
  scheduleHeld : s.w = scheduleStore s.keyBytes s.nk s.nr

theorem HoldsSchedule.congr {s t : State} {key : List Byte} (h : HoldsSchedule s key) (hst : SameKeyState s t) :
    HoldsSchedule t key := by
  have hbytes := keyBytes_congr hst
  have hnk := nk_congr hst
  have hnr := nr_congr hst
  refine ⟨h.toHoldsKey.congr hst, ?_, ?_⟩ <;> obtain ⟨-, -, hw, -, hrkOk⟩ := hst
  · rw [hrkOk, h.rkOk]
  · rw [hw, hbytes, hnk, hnr, h.scheduleHeld]

theorem klen_holdKey (s : State) {key : List Byte} (h : KeyLengthLegal key.length) :
    (s.holdKey key).klen.toNat = key.length := by
  rcases h with h | h | h <;> simp [h]

/-- A key of a legal length is held as it was sent (R24, R150). -/
theorem keyBytes_holdKey (s : State) {key : List Byte} (h : KeyLengthLegal key.length) : (s.holdKey key).keyBytes = key := by
  have hle : key.length ≤ 32 := by
    unfold KeyLengthLegal at h
    omega
  refine List.ext_getElem (by rw [keyBytes_length (klen_holdKey s h ▸ hle), klen_holdKey s h]) fun i _ hi => ?_
  simp [State.keyBytes, hi]

theorem holdsKey_holdKey (s : State) {key : List Byte} (h : KeyLengthLegal key.length) : HoldsKey (s.holdKey key) key where
  keyOk := State.holdKey_keyOk s key
  legal := klen_holdKey s h ▸ h
  keyHeld := keyBytes_holdKey s h

/-- `KEXPAND` puts the schedule of the held key into `W` and leaves the key (R151). -/
theorem holdsSchedule_fillSchedule {s : State} {key : List Byte} (h : HoldsKey s key) : HoldsSchedule s.fillSchedule key where
  keyOk := by simpa using h.keyOk
  legal := by simpa using h.legal
  keyHeld := by simpa [State.keyBytes] using h.keyHeld
  rkOk := State.fillSchedule_rkOk s
  scheduleHeld := by simp [State.keyBytes, State.nk, State.nr]

/-! ### The operation, by what it is given -/

/-- The operation encrypts under the round keys that the core holds for the key (R56, R148, R185). -/
theorem encrypt_of_holdsSchedule {s : State} {key msg : List Byte} (h : HoldsSchedule s key) (hm : msg.length % 16 = 0) :
    encrypt msg key = .ok (encryptMessage s.roundKeyMat s.nr msg) := by
  have hexpand : expand key = .ok ((List.range (s.nr + 1)).map s.roundKey) := by
    rw [← h.keyHeld, expand_keyBytes h.legal, wordsToBlocks_of_schedule h.scheduleHeld]
  have hrk : ∀ k ≤ s.nr, blocksRk ((List.range (s.nr + 1)).map s.roundKey) k = s.roundKeyMat k := fun k hk => by
    simp [blocksRk, State.roundKeyMat, Nat.lt_succ_of_le hk]
  rw [encrypt_of_expand hexpand hm, List.length_map, List.length_range, Nat.add_sub_cancel, encryptMessage_congr hrk]

theorem encrypt_of_illegal_key {key : List Byte} (msg : List Byte) (h : ¬KeyLengthLegal key.length) :
    encrypt msg key = .error (.unsupportedKeyLength key.length) := by
  simp only [encrypt, expand, keyParams_of_illegal h]

theorem encrypt_of_illegal_message {msg key : List Byte} (hk : KeyLengthLegal key.length) (hm : msg.length % 16 ≠ 0) :
    encrypt msg key = .error (.invalidBlockLength msg.length) := by
  obtain ⟨blocks, hblocks⟩ := expand_of_legal hk
  simp [encrypt, hblocks, hm]

/-! ### The commands of `ENCRYPT_CALL` -/

/-- `KEYLOAD` with a key of a legal length answers `OK` and leaves the key held (R150). -/
theorem runMacro_keyload {key : List Byte} (hk : KeyLengthLegal key.length) (rest : List (Instr × List Byte)) (s : State) :
    ∃ u, HoldsKey u key ∧ SameMatrices s u ∧
      runMacro ((.keyload, key) :: rest) s = ((runMacro rest u).1, okResponse [] :: (runMacro rest u).2) := by
  have hload : exec .keyload (s.accept key s.host) =
      .next (((s.accept key s.host).dropSchedule.holdKey key).replied []) := execKeyload_of_legal hk
  have hholds := (holdsKey_holdKey (s.accept key s.host).dropSchedule hk).congr (sameKeyState_replied _ [])
  exact ⟨_, hholds, fun i => by simp, runMacro_cons_of_replied rest (wellFormed_of_imm_eq_zero rfl) hload⟩

/-- `KEXPAND` with a key held answers `OK` and leaves the key and its schedule held (R151). -/
theorem runMacro_kexpand {s : State} {key : List Byte} (h : HoldsKey s key) (rest : List (Instr × List Byte)) :
    ∃ u, HoldsSchedule u key ∧ SameMatrices s u ∧
      runMacro ((.kexpand, []) :: rest) s = ((runMacro rest u).1, okResponse [] :: (runMacro rest u).2) := by
  have haccept := h.congr (sameKeyState_accept s [] s.host)
  have hexpand : exec .kexpand (s.accept [] s.host) = .next ((s.accept [] s.host).fillSchedule.replied []) :=
    needKey_of_true haccept.keyOk _
  have hholds := (holdsSchedule_fillSchedule haccept).congr (sameKeyState_replied _ [])
  exact ⟨_, hholds, fun i => by simp, runMacro_cons_of_replied rest (wellFormed_of_imm_eq_zero rfl) hexpand⟩

theorem execEncrypt_of_schedule {s : State} (hm : s.payload.length % 16 = 0) (hr : s.rkOk = true) :
    exec .encrypt s = .next (s.replied (encryptMessage s.roundKeyMat s.nr s.payload)) :=
  (messagePayload_of_eq hm _).trans (needSchedule_of_true hr _)

theorem execEncrypt_of_illegal_message {s : State} (hm : s.payload.length % 16 ≠ 0) :
    exec .encrypt s = .next (s.raised (.invalidBlockLength s.payload.length)) :=
  messagePayload_of_ne hm _

/-- The responses of the first three commands are those of the operation's outcome: three `OK`, the ciphertext with the last;
or the operation's error, after the commands that answered `OK` (R79, R185). -/
def ReportsOutcome (responses : List Response) : Except CmdError (List Byte) → Prop
  | .ok c => responses = [okResponse [], okResponse [], okResponse c]
  | .error e => ∃ oks, (∀ r ∈ oks, r = okResponse []) ∧ responses = oks ++ [errorResponse e]

theorem runMacro_macroEncrypt (key plaintext : List Byte) (s : State) :
    SameMatrices s (runMacro (macroEncrypt key plaintext) s).1 ∧
    ReportsOutcome (runMacro (macroEncrypt key plaintext) s).2 (encrypt plaintext key) := by
  have hwf : ∀ {i : Instr}, i.imm = 0 → i.WellFormed := wellFormed_of_imm_eq_zero
  by_cases hk : KeyLengthLegal key.length
  · obtain ⟨v, hkey, hsv, hload⟩ := runMacro_keyload hk [(.kexpand, []), (.encrypt, plaintext)] s
    obtain ⟨u, hholds, hvu, hexpand⟩ := runMacro_kexpand hkey [(.encrypt, plaintext)]
    have hsame : SameMatrices s u := fun i => (hvu i).trans (hsv i)
    rw [macroEncrypt, hload, hexpand]
    by_cases hm : plaintext.length % 16 = 0
    · rw [encrypt_of_holdsSchedule hholds hm,
        runMacro_cons_of_replied _ (hwf rfl) (execEncrypt_of_schedule (s := u.accept plaintext u.host) hm hholds.rkOk)]
      exact ⟨hsame, rfl⟩
    · rw [encrypt_of_illegal_message hk hm,
        runMacro_cons_of_raised _ (hwf rfl) (execEncrypt_of_illegal_message (s := u.accept plaintext u.host) hm)]
      exact ⟨hsame, [okResponse [], okResponse []], by simp, rfl⟩
  · have hfail : exec .keyload (s.accept key s.host) =
        .next ((s.accept key s.host).dropSchedule.dropKey.raised (.unsupportedKeyLength key.length)) :=
      execKeyload_of_illegal hk
    rw [macroEncrypt, encrypt_of_illegal_key plaintext hk, runMacro_cons_of_raised _ (hwf rfl) hfail]
    exact ⟨fun _ => rfl, [], by simp, rfl⟩

/-- The `KCLEAR` at the end answers `OK` in every state (R152). -/
theorem runMacro_kclear (s : State) :
    runMacro [(.kclear, [])] s = ((s.accept [] s.host).dropKey.dropSchedule.replied [], [okResponse []]) :=
  runMacro_cons_of_replied [] (wellFormed_of_imm_eq_zero rfl)
    (noPayload_of_nil (s := s.accept [] s.host) rfl (reply [] (s.accept [] s.host).dropKey.dropSchedule))

/-- A command sequence reports its first failure, whatever comes after it (R79). -/
theorem macroResponse_of_error {oks : List Response} (h : ∀ r ∈ oks, r = okResponse []) (e : CmdError)
    (rest : List Response) : macroResponse (oks ++ errorResponse e :: rest) = some (errorResponse e) := by
  have hoks : oks.find? (fun r => r.code != 0#8) = none :=
    List.find?_eq_none.mpr fun r hr => by simp [h r hr, okResponse]
  simp [macroResponse, List.find?_append, hoks, errorResponse_code_ne_zero]

/-- Settles O60: the first three commands report the outcome of `encrypt`, and `KCLEAR` erases the key state from whatever state
they leave. -/
theorem encryptCallComputesEncrypt : Obligations.EncryptCallComputesEncrypt := by
  intro key plaintext s
  obtain ⟨hsame, hreports⟩ := runMacro_macroEncrypt key plaintext s
  rw [encryptCall, runMacro_kclear]
  refine ⟨fun c hc => ?_, fun e he => ?_, rfl, rfl, fun i => ?_, fun i => ?_, hsame⟩
  · rw [hc] at hreports
    rw [hreports]
    exact ⟨rfl, rfl⟩
  · rw [he] at hreports
    obtain ⟨oks, hoks, hresponses⟩ := hreports
    rw [hresponses, List.append_assoc]
    exact ⟨macroResponse_of_error hoks e _, by simp [okResponse]⟩
  · simp
  · simp

end Sys2Proof.Machine
end

section
/-! PROOFS. Multiplication in GF(2^8) is additive in each factor and commutative (41_sbox_gf256.md R121, R122, R123). -/

namespace Sys2Proof.Machine

/-- Every byte is an XOR of bytes with one bit set, so a property that XOR keeps need only be shown at those. -/
theorem byte_induction {P : Byte → Prop} (bit : ∀ i : Fin 8, P (BitVec.twoPow 8 i))
    (xor : ∀ {a b : Byte}, P a → P b → P (a ^^^ b)) (a : Byte) : P a := by
  have hzero : P 0 := xor (bit 0) (bit 0)
  have hbits : a = (List.finRange 8).foldr (fun i b => (a &&& BitVec.twoPow 8 i) ^^^ b) 0 := by
    revert a
    decide
  rw [hbits]
  induction List.finRange 8 with
  | nil => exact hzero
  | cons i is ih =>
    refine xor ?_ ih
    rw [BitVec.and_twoPow]
    split
    · exact bit i
    · exact hzero

theorem ite_bool_xor (x y : Bool) (a : Byte) :
    (if x ^^ y then a else 0) = (if x then a else 0) ^^^ (if y then a else 0) := by
  cases x <;> cases y <;> simp

/-- Doubling is a shift, reduced when the bit shifted out is set (R121). -/
theorem xtime_eq_shiftLeft (a : Byte) : xtime a = (a <<< 1) ^^^ (if a.msb then 0x1B else 0) := by
  revert a
  decide

theorem xtime_xor (a b : Byte) : xtime (a ^^^ b) = xtime a ^^^ xtime b := by
  simp only [xtime_eq_shiftLeft, BitVec.shiftLeft_xor_distrib, BitVec.msb_xor, ite_bool_xor]
  ac_rfl

theorem gfMulTurn_eq (b p a : Byte) (i : Nat) :
    gfMulTurn b (p, a) i = (p ^^^ (if b.getLsbD i then a else 0), xtime a) := by
  unfold gfMulTurn
  split <;> simp

/-- The turns of R122's loop add up in the running product and the running multiple. -/
theorem foldl_gfMulTurn_xor_left (b p p' a a' : Byte) (is : List Nat) :
    (is.foldl (gfMulTurn b) (p ^^^ p', a ^^^ a')).1 =
      (is.foldl (gfMulTurn b) (p, a)).1 ^^^ (is.foldl (gfMulTurn b) (p', a')).1 := by
  induction is generalizing p p' a a' with
  | nil => rfl
  | cons i is ih =>
    have hterm : (if b.getLsbD i then a ^^^ a' else 0) =
        (if b.getLsbD i then a else 0) ^^^ (if b.getLsbD i then a' else 0) := by
      cases b.getLsbD i <;> simp
    simp only [List.foldl_cons, gfMulTurn_eq, hterm, xtime_xor, ← ih]
    congr 3
    ac_rfl

/-- The turns of R122's loop add up in the bits of the second factor. -/
theorem foldl_gfMulTurn_xor_right (b b' p p' a : Byte) (is : List Nat) :
    (is.foldl (gfMulTurn (b ^^^ b')) (p ^^^ p', a)).1 =
      (is.foldl (gfMulTurn b) (p, a)).1 ^^^ (is.foldl (gfMulTurn b') (p', a)).1 := by
  induction is generalizing p p' a with
  | nil => rfl
  | cons i is ih =>
    simp only [List.foldl_cons, gfMulTurn_eq, BitVec.getLsbD_xor, ite_bool_xor, ← ih]
    congr 3
    ac_rfl

theorem gfMul_xor_left (a a' b : Byte) : gfMul (a ^^^ a') b = gfMul a b ^^^ gfMul a' b :=
  foldl_gfMulTurn_xor_left b 0 0 a a' _

theorem gfMul_xor_right (a b b' : Byte) : gfMul a (b ^^^ b') = gfMul a b ^^^ gfMul a b' :=
  foldl_gfMulTurn_xor_right b b' 0 0 a _

/-- Multiplication in the field is commutative (R123): it is additive in each factor, and bytes with one bit set commute. -/
theorem gfMul_comm (a b : Byte) : gfMul a b = gfMul b a := by
  induction a using byte_induction with
  | xor iha iha' => rw [gfMul_xor_left, gfMul_xor_right, iha, iha']
  | bit i =>
    induction b using byte_induction with
    | xor ihb ihb' => rw [gfMul_xor_left, gfMul_xor_right, ihb, ihb']
    | bit j =>
      revert i j
      decide

theorem gfMul_one_left (a : Byte) : gfMul 1#8 a = a := by
  revert a
  decide

theorem gfMul_zero_left (a : Byte) : gfMul 0#8 a = 0#8 := by
  have hself := gfMul_xor_left 0#8 0#8 a
  simpa using hself

end Sys2Proof.Machine
end

section
/-! PROOFS. The laws of the matrix functions for every shape, and what the matrix commands write and reply (40_matrix.md R90 to
R111). -/

namespace Sys2Proof.Machine

/-! ### The operations of `MMUL` (R96) -/

/-- The `INT` pair is multiplication and addition modulo 256. -/
theorem mulFnOp_int (a b : Byte) : mulFnOp .int a b = a * b := rfl

theorem addFnOp_int (a b : Byte) : addFnOp .int a b = a + b := rfl

theorem mulFnOp_comm (fn : MulFn) (a b : Byte) : mulFnOp fn a b = mulFnOp fn b a := by
  cases fn with
  | gf => exact gfMul_comm a b
  | int => exact BitVec.mul_comm a b

@[simp] theorem mulFnOp_one_left (fn : MulFn) (a : Byte) : mulFnOp fn 1#8 a = a := by
  cases fn with
  | gf => exact gfMul_one_left a
  | int => exact BitVec.one_mul a

@[simp] theorem mulFnOp_zero_left (fn : MulFn) (a : Byte) : mulFnOp fn 0#8 a = 0#8 := by
  cases fn with
  | gf => exact gfMul_zero_left a
  | int => exact BitVec.zero_mul

@[simp] theorem addFnOp_zero_left (fn : MulFn) (a : Byte) : addFnOp fn 0#8 a = a := by
  cases fn with
  | gf => exact BitVec.zero_xor
  | int => exact BitVec.zero_add a

@[simp] theorem addFnOp_zero_right (fn : MulFn) (a : Byte) : addFnOp fn a 0#8 = a := by
  cases fn with
  | gf => exact BitVec.xor_zero
  | int => exact BitVec.add_zero a

/-! ### Laws for every shape (R101) -/

theorem matXor_self {m n : Nat} (A : Mat m n) : matXor A A = matNew m n :=
  mat_ext fun r c => by
    rw [matXor_get, matNew_get]
    exact BitVec.xor_self

theorem matXor_cancel_right {m n : Nat} (A B : Mat m n) : matXor (matXor A B) B = A :=
  mat_ext fun r c => by rw [matXor_get, matXor_get, xor_cancel_right]

theorem matXor_matNew_right {m n : Nat} (A : Mat m n) : matXor A (matNew m n) = A :=
  mat_ext fun r c => by
    rw [matXor_get, matNew_get]
    exact BitVec.xor_zero

theorem flat_eq_flatten {m n : Nat} (A : Mat m n) : flat A = A.flatten.toList := by
  have htoList : A.flatten.toList = (A.toArray.map Vector.toArray).flatten.toList := rfl
  rw [htoList, Array.toList_flatten, Array.toList_map, List.map_map]
  rfl

/-- `flat` undoes `from_rm` on a sequence of the right length, whatever the shape (R53, R92): place `i` is column `i mod n` of
row `i / n`. -/
theorem flat_fromRm_of_length {b : List Byte} {m n : Nat} (h : b.length = m * n) : flat (fromRm b m n) = b := by
  refine List.ext_getElem ((flat_length _).trans h.symm) fun i _ hib => ?_
  have hi : i < n * m := by rwa [Nat.mul_comm, ← h]
  have hn : 0 < n := Nat.pos_of_lt_mul_right hi
  have hplace := fromRm_get b (m := m) (n := n) ⟨i / n, Nat.div_lt_of_lt_mul hi⟩ ⟨i % n, Nat.mod_lt i hn⟩
  rw [Nat.div_add_mod, List.getD_eq_getElem _ _ hib] at hplace
  simp only [flat_eq_flatten, Vector.getElem_toList, Vector.getElem_flatten]
  exact hplace

theorem matTryFrom_of_length {b : List Byte} {m n : Nat} (h : b.length = m * n) :
    matTryFrom b m n = .ok (fromRm b m n) := if_pos h

theorem matTryFrom_of_length_ne {b : List Byte} {m n : Nat} (h : b.length ≠ m * n) :
    matTryFrom b m n = .error (.invalidLength b.length m n) := if_neg h

/-- The 4x4 identity matrix is a left unit of both products: of the terms of row `i` only the one of column `i` is left. -/
theorem matMul_identity_left (fn : MulFn) (A : Block) :
    matMul (matOfFn fun r c : Fin 4 => if r = c then 1 else 0) A (mulFnOp fn) (addFnOp fn) = A := by
  refine mat_ext fun i j => ?_
  simp only [matMul_get, matOfFn_get, List.ofFn_succ, List.ofFn_zero, foldProducts, List.foldl]
  fin_cases i <;> simp

/-- The transpose of a product is the product of the transposes in the other order, where products of bytes commute. -/
theorem transposed_matMul {mulFn : Byte → Byte → Byte} (hcomm : ∀ a b, mulFn a b = mulFn b a)
    (addFn : Byte → Byte → Byte) {m k n : Nat} (A : Mat m k) (B : Mat k n) :
    transposed (matMul A B mulFn addFn) = matMul (transposed B) (transposed A) mulFn addFn := by
  refine mat_ext fun j i => ?_
  have hterm : ∀ t : Fin k, mulFn A[i][t] B[t][j] = mulFn B[t][j] A[i][t] := fun t => hcomm _ _
  simp only [transposed_get, matMul_get, hterm]

/-- Settles O55, law by law; the transpose of a product rests on both multiplications being commutative. -/
theorem matrixLawsHoldForEveryShape : Obligations.MatrixLawsHoldForEveryShape :=
  ⟨fun _ _ => transposed_transposed, fun _ _ => matXor_self, fun _ _ => matXor_cancel_right,
    fun _ _ _ => ⟨fun h => ⟨_, matTryFrom_of_length h, flat_fromRm_of_length h⟩, matTryFrom_of_length_ne⟩,
    fun _ _ => matXor_matNew_right, matMul_identity_left,
    fun fn _ _ _ A B => transposed_matMul (mulFnOp_comm fn) (addFnOp fn) A B⟩

/-! ### The opcode and the outcome of a command -/

theorem hasOpcode_of_imm_eq_zero {i : Instr} (h : i.imm = 0) : HasOpcode (BitVec.ofNat 8 i.fields.opc) i :=
  encode_opcode (wellFormed_of_imm_eq_zero h)

theorem readM_replied_writeM (s : State) (md : MReg) (v : Block) (bytes : List Byte) :
    ((s.writeM md v).replied bytes).readM md = v := by
  rw [State.replied_readM, readM_writeM_same]

theorem failedWith_invalidLength (s : State) {rows cols : Nat} (hr : rows < 256) (hc : cols < 256) :
    FailedWith (.invalidLength s.payload.length rows cols) s (s.raised (.invalidLength s.payload.length rows cols)) :=
  failedWith_raised s _ hr hc

/-! ### Commands that write a whole register (R102, R103, R105 to R108) -/

/-- Settles O23. -/
theorem mzeroWritesZeros : Obligations.MzeroWritesZeros := by
  refine ⟨fun _ => hasOpcode_of_imm_eq_zero rfl, fun md s hp => ?_⟩
  refine ⟨_, execMzero_of_nil md hp, wroteOnly_writeM md s _, fun r c => ?_⟩
  rw [readM_replied_writeM, matNew_get]

theorem execMload_of_length_ne {s : State} (md : MReg) (h : s.payload.length ≠ 16) :
    exec (.mload md) s = .next (s.raised (.invalidLength s.payload.length 4 4)) :=
  shapedPayload_of_ne h _

/-- Settles O24: the bytes read row by row from the written register are the payload. -/
theorem mloadPlacesBytesRowMajor : Obligations.MloadPlacesBytesRowMajor := by
  refine ⟨fun _ => hasOpcode_of_imm_eq_zero rfl, fun md s => ⟨fun h => ?_, fun h => ?_⟩⟩
  · refine ⟨_, execMload_of_block md h, wroteOnly_writeM md s _, fun r c => ?_⟩
    rw [readM_replied_writeM, ← flat_block_get, flat_fromRm h]
  · exact ⟨_, execMload_of_length_ne md h, failedWith_invalidLength s (by decide) (by decide)⟩

theorem execMtrans_of_nil {s : State} (md ma : MReg) (h : s.payload = []) :
    exec (.mtrans md ma) s = .next ((s.writeM md (transposed (s.readM ma))).replied []) :=
  noPayload_of_nil h _

/-- Settles O26. -/
theorem mtransWritesTheTranspose : Obligations.MtransWritesTheTranspose := by
  refine ⟨fun _ _ => hasOpcode_of_imm_eq_zero rfl, fun md ma s hp => ?_⟩
  refine ⟨_, execMtrans_of_nil md ma hp, wroteOnly_writeM md s _, fun r c => ?_⟩
  rw [readM_replied_writeM, transposed_get]

/-- Settles O27. -/
theorem mxorWritesTheXor : Obligations.MxorWritesTheXor := by
  refine ⟨fun _ _ _ => hasOpcode_of_imm_eq_zero rfl, fun md ma mb s hp => ?_⟩
  refine ⟨_, execMxor_of_nil md ma mb hp, wroteOnly_writeM md s _, fun r c => ?_⟩
  rw [readM_replied_writeM, matXor_get]

/-- A product with the `INT` pair is a sum of products modulo 256 (R96, R107). -/
theorem matMul_int_get_four (A B : Block) (i j : Fin 4) :
    (matMul A B (mulFnOp .int) (addFnOp .int))[i][j].toNat =
      (A[i][0].toNat * B[0][j].toNat + A[i][1].toNat * B[1][j].toNat + A[i][2].toNat * B[2][j].toNat +
        A[i][3].toNat * B[3][j].toNat) % 256 := by
  rw [matMul_get_four]
  simp only [mulFnOp_int, addFnOp_int, BitVec.toNat_add, BitVec.toNat_mul]
  simp

/-- Settles O28: one entry with each of the two pairs of R96, computed from the sources as they stood. -/
theorem mmulWritesTheProduct : Obligations.MmulWritesTheProduct := by
  refine fun md ma mb s hp => ⟨?_, ?_⟩
  · refine ⟨_, execMmul_of_nil md ma mb .gf hp, wroteOnly_writeM md s _, fun i j => ?_⟩
    rw [readM_replied_writeM, matMul_get_four]
    rfl
  · refine ⟨_, execMmul_of_nil md ma mb .int hp, wroteOnly_writeM md s _, fun i j => ?_⟩
    rw [readM_replied_writeM, matMul_int_get_four]

theorem execMmap_of_nil {s : State} (md ma : MReg) (fn : MapFn) (h : s.payload = []) :
    exec (.mmap md ma fn) s = .next ((s.writeM md (matMap (s.readM ma) (mapFnOp fn))).replied []) :=
  noPayload_of_nil h _

theorem mapFnOp_eq_subByte (fn : MapFn) : mapFnOp fn = subByte := by
  cases fn
  rfl

/-- Settles O29. -/
theorem mmapSubstitutesEveryByte : Obligations.MmapSubstitutesEveryByte := by
  intro md ma fn s hp
  refine ⟨_, execMmap_of_nil md ma fn hp, wroteOnly_writeM md s _, fun r c => ?_⟩
  rw [readM_replied_writeM, matMap_get, mapFnOp_eq_subByte]

/-! ### Commands on one row (R109, R110) -/

theorem execMrowrol_rowSet_of_nil {s : State} (md : MReg) (row n : Fin 4) (h : s.payload = []) :
    exec (.mrowrol md row n) s =
      .next ((s.writeM md (rowSet (s.readM md) row (rowRotl (rowGet (s.readM md) row) n.val))).replied []) :=
  noPayload_of_nil h _

theorem rowRotl_get_add (v : Word) (n c : Fin 4) : (rowRotl v n.val)[c] = v[c + n] := by
  rw [rowRotl_get]
  simp [Fin.val_add]

/-- Settles O30: the row named is the rotated one, every other row is as it was. -/
theorem mrowrolRotatesOneRow : Obligations.MrowrolRotatesOneRow := by
  refine ⟨fun _ _ _ => hasOpcode_of_imm_eq_zero rfl, fun md row n s hp => ?_⟩
  refine ⟨_, execMrowrol_rowSet_of_nil md row n hp, wroteOnly_writeM md s _, fun c => ?_, fun r hr => ?_⟩
  · rw [readM_replied_writeM, rowSet_get_same, rowRotl_get_add, rowGet]
  · rw [readM_replied_writeM, rowSet_get_ne _ _ hr]

theorem execMrowld_of_row {s : State} (md : MReg) (row : Fin 4) (h : s.payload.length = 4) :
    exec (.mrowld md row) s = .next ((s.writeM md (rowSet (s.readM md) row s.payloadWord)).replied []) :=
  shapedPayload_of_eq h _

theorem execMrowld_of_length_ne {s : State} (md : MReg) (row : Fin 4) (h : s.payload.length ≠ 4) :
    exec (.mrowld md row) s = .next (s.raised (.invalidLength s.payload.length 1 4)) :=
  shapedPayload_of_ne h _

/-- The word of a four-byte payload has the payload's bytes (R51, R110). -/
theorem payloadWord_get {s : State} (h : s.payload.length = 4) (o : Fin 4) :
    s.payload[o.val]? = some s.payloadWord[o] := by
  have ho : o.val < s.payload.length := by omega
  simp [State.payloadWord, State.payloadByte, ho]

/-- Settles O31, by the length of the payload. -/
theorem mrowldReplacesOneRow : Obligations.MrowldReplacesOneRow := by
  refine ⟨fun _ _ => hasOpcode_of_imm_eq_zero rfl, fun md row s => ⟨fun h => ?_, fun h => ?_⟩⟩
  · refine ⟨_, execMrowld_of_row md row h, wroteOnly_writeM md s _, fun c => ?_, fun r hr => ?_⟩
    · rw [readM_replied_writeM, rowSet_get_same, payloadWord_get h]
    · rw [readM_replied_writeM, rowSet_get_ne _ _ hr]
  · exact ⟨_, execMrowld_of_length_ne md row h, failedWith_invalidLength s (by decide) (by decide)⟩

/-! ### Commands that reply bytes of a register (R104, R111) -/

theorem execMstore_of_nil {s : State} (ma : MReg) (h : s.payload = []) :
    exec (.mstore ma) s = .next (s.replied (flat (s.readM ma))) :=
  noPayload_of_nil h _

/-- Settles O25: the reply is the register's bytes row after row. -/
theorem mstoreRepliesRowMajorBytes : Obligations.MstoreRepliesRowMajorBytes := by
  refine ⟨fun _ => hasOpcode_of_imm_eq_zero rfl, fun ma s hp => ?_⟩
  exact ⟨_, _, execMstore_of_nil ma hp, repliedOnly_replied s _, flat_length _, flat_block_get _⟩

theorem execMrowst_of_nil {s : State} (ma : MReg) (row : Fin 4) (h : s.payload = []) :
    exec (.mrowst ma row) s = .next (s.replied (rowGet (s.readM ma) row).toList) :=
  noPayload_of_nil h _

/-- Settles O32. -/
theorem mrowstRepliesOneRow : Obligations.MrowstRepliesOneRow := by
  refine ⟨fun _ _ => hasOpcode_of_imm_eq_zero rfl, fun ma row s hp => ?_⟩
  exact ⟨_, _, execMrowst_of_nil ma row hp, repliedOnly_replied s _, Vector.length_toList, fun c => by simp [rowGet]⟩

end Sys2Proof.Machine
end

section
/-! PROOFS. Multiplication in GF(2^8) is the polynomial product and obeys the field laws, the S-box is the affine transform of
the inverse, and the two commands reply them (41_sbox_gf256.md R120 to R131). -/

namespace Sys2Proof.Machine

/-! ### The polynomial product (R120, R122) -/

/-- Folds whose turns add up have sums that add up. -/
theorem foldl_xor_of_turn_xor {f g h : Nat → Nat → Nat} (hturn : ∀ p q i, h (p ^^^ q) i = f p i ^^^ g q i) (p q : Nat)
    (is : List Nat) : is.foldl h (p ^^^ q) = is.foldl f p ^^^ is.foldl g q := by
  induction is generalizing p q with
  | nil => rfl
  | cons i is ih => rw [List.foldl_cons, hturn, ih, List.foldl_cons, List.foldl_cons]

/-- A term added at the bits of an XOR is added once for each operand; where both add it, it cancels. -/
theorem ite_bool_xor_term (x y : Bool) (p q t : Nat) :
    (if x ^^ y then (p ^^^ q) ^^^ t else p ^^^ q) = (if x then p ^^^ t else p) ^^^ (if y then q ^^^ t else q) := by
  cases x <;> cases y <;> simp [Nat.xor_comm, Nat.xor_left_comm]

theorem polyReduce_xor (p q : Nat) : polyReduce (p ^^^ q) = polyReduce p ^^^ polyReduce q := by
  refine foldl_xor_of_turn_xor (fun p q i => ?_) p q _
  rw [Nat.testBit_xor, ite_bool_xor_term]

theorem polyMul_xor_left (a a' b : Byte) : polyMul (a ^^^ a') b = polyMul a b ^^^ polyMul a' b := by
  refine foldl_xor_of_turn_xor (fun p q i => ?_) 0 0 _
  split
  · rw [BitVec.toNat_xor, Nat.shiftLeft_xor_distrib]
    ac_rfl
  · rfl

theorem polyMul_xor_right (a b b' : Byte) : polyMul a (b ^^^ b') = polyMul a b ^^^ polyMul a b' := by
  refine foldl_xor_of_turn_xor (fun p q i => ?_) 0 0 _
  rw [BitVec.getLsbD_xor, ite_bool_xor_term]

theorem polyProduct_xor_left (a a' b : Byte) : polyProduct (a ^^^ a') b = polyProduct a b ^^^ polyProduct a' b := by
  rw [polyProduct, polyMul_xor_left, polyReduce_xor, BitVec.ofNat_xor, polyProduct, polyProduct]

theorem polyProduct_xor_right (a b b' : Byte) : polyProduct a (b ^^^ b') = polyProduct a b ^^^ polyProduct a b' := by
  rw [polyProduct, polyMul_xor_right, polyReduce_xor, BitVec.ofNat_xor, polyProduct, polyProduct]

/-- Settles O49: both products are additive in each factor, and they agree at bytes with one bit set. -/
theorem gfMulIsThePolynomialProduct : Obligations.GfMulIsThePolynomialProduct := by
  intro a b
  induction a using byte_induction with
  | xor iha iha' => rw [gfMul_xor_left, polyProduct_xor_left, iha, iha']
  | bit i =>
    induction b using byte_induction with
    | xor ihb ihb' => rw [gfMul_xor_right, polyProduct_xor_right, ihb, ihb']
    | bit j =>
      revert i j
      decide

/-! ### The field laws (R123) -/

theorem gfMul_one_right (a : Byte) : gfMul a 1#8 = a := by rw [gfMul_comm, gfMul_one_left]

theorem gfMul_zero_right (a : Byte) : gfMul a 0#8 = 0#8 := by rw [gfMul_comm, gfMul_zero_left]

theorem xtime_ite (x : Bool) (a : Byte) : xtime (if x then a else 0) = if x then xtime a else 0 := by
  cases x <;> rfl

/-- The turns of R122's loop commute with doubling. -/
theorem foldl_gfMulTurn_xtime (b p a : Byte) (is : List Nat) :
    (is.foldl (gfMulTurn b) (xtime p, xtime a)).1 = xtime (is.foldl (gfMulTurn b) (p, a)).1 := by
  induction is generalizing p a with
  | nil => rfl
  | cons i is ih => simp only [List.foldl_cons, gfMulTurn_eq, ← ih, xtime_xor, xtime_ite]

theorem gfMul_xtime_left (a b : Byte) : gfMul (xtime a) b = xtime (gfMul a b) :=
  foldl_gfMulTurn_xtime b 0 a _

/-- A byte with one bit set is `1` doubled so many times. -/
theorem twoPow_eq_iterate_xtime (i : Fin 8) : BitVec.twoPow 8 i = xtime^[i] 1#8 := by
  revert i
  decide

/-- Every byte is made from `1` by doubling and XOR: the field's elements are polynomials in `x`. -/
theorem byte_induction_xtime {P : Byte → Prop} (one : P 1#8) (double : ∀ {a : Byte}, P a → P (xtime a))
    (xor : ∀ {a b : Byte}, P a → P b → P (a ^^^ b)) (a : Byte) : P a := by
  refine byte_induction (fun i => ?_) xor a
  rw [twoPow_eq_iterate_xtime]
  induction i.val with
  | zero => exact one
  | succ n ih =>
    rw [Function.iterate_succ_apply']
    exact double ih

/-- Multiplication in the field is associative (R123), since it is additive and commutes with doubling in its first factor. -/
theorem gfMul_assoc (a b c : Byte) : gfMul (gfMul a b) c = gfMul a (gfMul b c) := by
  induction a using byte_induction_xtime with
  | one => rw [gfMul_one_left, gfMul_one_left]
  | double ih => rw [gfMul_xtime_left, gfMul_xtime_left, gfMul_xtime_left, ih]
  | xor ih ih' => rw [gfMul_xor_left, gfMul_xor_left, gfMul_xor_left, ih, ih']

/-! ### Inverses (R123 to R125) -/

/-- The affine transform of the inverse S-box, which undoes `affine`. -/
def affineInv (b : Byte) : Byte := b.rotateLeft 1 ^^^ b.rotateLeft 3 ^^^ b.rotateLeft 6 ^^^ 0x05

theorem affineInv_affine : Function.LeftInverse affineInv affine := by
  unfold Function.LeftInverse
  decide

theorem affine_affineInv : Function.RightInverse affineInv affine := by
  unfold Function.RightInverse Function.LeftInverse
  decide

theorem affine_bijective : Function.Bijective affine := ⟨affineInv_affine.injective, affine_affineInv.surjective⟩

/-- The table of R126 holds an inverse of every byte but zero, once the affine transform is undone. -/
theorem gfMul_affineInv_subByte {a : Byte} : a ≠ 0#8 → gfMul a (affineInv (subByte a)) = 1#8 := by
  revert a
  decide

theorem gfMul_left_cancel {a b c : Byte} (ha : a ≠ 0#8) (h : gfMul a b = gfMul a c) : b = c := by
  have hundo (d : Byte) : gfMul (affineInv (subByte a)) (gfMul a d) = d := by
    rw [← gfMul_assoc, gfMul_comm _ a, gfMul_affineInv_subByte ha, gfMul_one_left]
  rw [← hundo b, h, hundo]

theorem eq_zero_or_eq_zero_of_gfMul {a b : Byte} (h : gfMul a b = 0#8) : a = 0#8 ∨ b = 0#8 :=
  or_iff_not_imp_left.mpr fun ha => gfMul_left_cancel ha (h.trans (gfMul_zero_right a).symm)

/-- Settles O50: each law is a lemma above, and the check values of R123 are evaluated. -/
theorem gfMulObeysTheFieldLaws : Obligations.GfMulObeysTheFieldLaws :=
  ⟨gfMul_comm, gfMul_assoc, gfMul_xor_right, gfMul_one_right, gfMul_zero_right, fun _ _ => eq_zero_or_eq_zero_of_gfMul,
    by decide⟩

/-- The square of R124's square and multiply. -/
def gfSquare (a : Byte) : Byte := gfMul a a

theorem gfMul_self (a : Byte) : gfMul a a = gfSquare a := rfl

theorem gfMul_gfMul_self (b c : Byte) : gfMul b (gfMul b c) = gfMul (gfSquare b) c := (gfMul_assoc b b c).symm

/-- Squaring is additive: the two mixed products cancel. -/
theorem gfSquare_xor (a b : Byte) : gfSquare (a ^^^ b) = gfSquare a ^^^ gfSquare b := by
  simp only [gfSquare, gfMul_xor_left, gfMul_xor_right, gfMul_comm b a]
  rw [BitVec.xor_assoc, ← BitVec.xor_assoc (gfMul a b), BitVec.xor_self, BitVec.zero_xor]

theorem iterate_gfSquare_xor (n : Nat) (a b : Byte) : gfSquare^[n] (a ^^^ b) = gfSquare^[n] a ^^^ gfSquare^[n] b :=
  Function.Semiconj₂.iterate (op := (· ^^^ ·)) gfSquare_xor n a b

/-- `a^256 = a`: both sides are additive, and they agree at bytes with one bit set. -/
theorem iterate_gfSquare_eight (a : Byte) : gfSquare^[8] a = a := by
  induction a using byte_induction with
  | bit i =>
    revert i
    decide
  | xor iha ihb => rw [iterate_gfSquare_xor, iha, ihb]

/-- `a * (a * a^254) = a^256`, from `b * (b * c) = b^2 * c` at `b = a, a^2, ..., a^64`. -/
theorem gfMul_gfMul_gfInv (a : Byte) : gfMul a (gfMul a (gfInv a)) = gfSquare^[8] a := by
  simp only [gfInv, gfMul_self, gfMul_gfMul_self]
  rfl

/-- `a^254` is the inverse of `a` (R124). -/
theorem gfMul_gfInv {a : Byte} (h : a ≠ 0#8) : gfMul a (gfInv a) = 1#8 := by
  refine gfMul_left_cancel h ?_
  rw [gfMul_gfMul_gfInv, iterate_gfSquare_eight, gfMul_one_right]

theorem gfInv_zero : gfInv 0#8 = 0#8 := gfMul_zero_left _

theorem gfInv_ne_zero {a : Byte} (h : a ≠ 0#8) : gfInv a ≠ 0#8 := by
  intro hzero
  have hone := gfMul_gfInv h
  rw [hzero, gfMul_zero_right] at hone
  exact absurd hone (by decide)

/-- The inverse of the inverse: `a` and `gfInv (gfInv a)` are both inverses of `gfInv a`. -/
theorem gfInv_involutive : Function.Involutive gfInv := by
  intro a
  by_cases h : a = 0#8
  · rw [h, gfInv_zero, gfInv_zero]
  · refine gfMul_left_cancel (gfInv_ne_zero h) ?_
    rw [gfMul_gfInv (gfInv_ne_zero h), gfMul_comm, gfMul_gfInv h]

/-! ### The S-box (R126, R127) -/

/-- An inverse is unique, so the one the table holds is `a^254`. -/
theorem affineInv_subByte (a : Byte) : affineInv (subByte a) = gfInv a := by
  by_cases h : a = 0#8
  · rw [h, gfInv_zero]
    decide
  · refine gfMul_left_cancel h ?_
    rw [gfMul_affineInv_subByte h, gfMul_gfInv h]

theorem subByte_eq_affine_gfInv (a : Byte) : subByte a = affine (gfInv a) := by
  rw [← affineInv_subByte, affine_affineInv]

theorem subByte_bijective : Function.Bijective subByte := by
  rw [show subByte = affine ∘ gfInv from funext subByte_eq_affine_gfInv]
  exact affine_bijective.comp gfInv_involutive.bijective

/-- Settles O51: the S-box is a composition of two bijections. -/
theorem sboxTableIsAffineOfInverse : Obligations.SboxTableIsAffineOfInverse :=
  ⟨subByte_eq_affine_gfInv, fun _ => gfMul_gfInv, gfInv_zero, subByte_bijective⟩

/-! ### The commands (R130, R131) -/

theorem execSubbyte_of_byte {s : State} {a : Byte} (h : s.payload = [a]) :
    exec .subbyte s = .next (s.replied [subByte a]) := by
  have hbyte : s.payloadByte 0 = a := by simp [State.payloadByte, h]
  rw [← hbyte]
  exact shapedPayload_of_eq (by simp [h]) _

theorem execSubbyte_of_length_ne {s : State} (h : s.payload.length ≠ 1) :
    exec .subbyte s = .next (s.raised (.invalidLength s.payload.length 1 1)) :=
  shapedPayload_of_ne h _

/-- Settles O33, by the length of the payload. -/
theorem subbyteRepliesTheEntry : Obligations.SubbyteRepliesTheEntry := by
  refine ⟨hasOpcode_of_imm_eq_zero rfl, fun s => ⟨fun a h => ?_, fun h => ?_⟩⟩
  · exact ⟨_, execSubbyte_of_byte h, repliedOnly_replied s _⟩
  · exact ⟨_, execSubbyte_of_length_ne h, failedWith_invalidLength s (by decide) (by decide)⟩

theorem execGfmul_of_bytes {s : State} {a b : Byte} (h : s.payload = [a, b]) :
    exec .gfmul s = .next (s.replied [gfMul a b]) := by
  have ha : s.payloadByte 0 = a := by simp [State.payloadByte, h]
  have hb : s.payloadByte 1 = b := by simp [State.payloadByte, h]
  rw [← ha, ← hb]
  exact shapedPayload_of_eq (by simp [h]) _

theorem execGfmul_of_length_ne {s : State} (h : s.payload.length ≠ 2) :
    exec .gfmul s = .next (s.raised (.invalidLength s.payload.length 1 2)) :=
  shapedPayload_of_ne h _

/-- Settles O34, by the length of the payload: the reply is the shift-and-add product, which is the polynomial product. -/
theorem gfmulRepliesTheProduct : Obligations.GfmulRepliesTheProduct := by
  refine ⟨hasOpcode_of_imm_eq_zero rfl, fun s => ⟨fun a b h => ?_, fun h => ?_⟩⟩
  · rw [← gfMulIsThePolynomialProduct]
    exact ⟨_, execGfmul_of_bytes h, repliedOnly_replied s _⟩
  · exact ⟨_, execGfmul_of_length_ne h, failedWith_invalidLength s (by decide) (by decide)⟩

end Sys2Proof.Machine
end

section
/-! PROOFS. The key schedule functions (42_key_schedule.md R141 to R149): round constants are doublings of `0x01` with period 51,
the words of a schedule obey the recurrence, and its blocks begin with the key. -/

namespace Sys2Proof.Machine

/-! ### Round constants (R141 to R143) -/

theorem rcLoop_eq_iterate_xtime (n : Nat) (a : Byte) : rcLoop n a = xtime^[n] a := by
  induction n generalizing a with
  | zero => rfl
  | succ n ih => rw [rcLoop_succ, ih, Function.iterate_succ_apply]

theorem rc_zero : rc 0 = none := rfl

theorem rc_succ (n : Nat) : rc (n + 1) = some (xtime^[n] 1) := congrArg some (rcLoop_eq_iterate_xtime n 1)

theorem rc_of_pos {n : Nat} (h : 1 ≤ n) : rc n = some (xtime^[n - 1] 1) := by
  rw [← rc_succ, Nat.sub_add_cancel h]

theorem rcon_isSome {j : Nat} (h : j ≠ 0) : ∃ k, rcon j = some k := by
  obtain ⟨b, hb⟩ := rc_isSome h
  exact ⟨wordOf b 0 0 0, by rw [rcon, hb]⟩

/-- 51 doublings of `0x01` give `0x01` again, and no fewer do (R142). -/
theorem minimalPeriod_xtime_one : Function.minimalPeriod xtime 1 = 51 := by
  have hrc (n : Nat) : Function.IsPeriodicPt xtime n 1 ↔ rc (n + 1) = some 1 := by
    rw [rc_succ, Option.some.injEq, Function.IsPeriodicPt, Function.IsFixedPt]
  have hperiod : Function.IsPeriodicPt xtime 51 1 := (hrc 51).mpr (by decide)
  have hfewer : ∀ n < 51, 0 < n → rc (n + 1) ≠ some 1 := by decide
  refine le_antisymm (hperiod.minimalPeriod_le (by decide)) (not_lt.mp fun hlt => ?_)
  exact hfewer _ hlt (hperiod.minimalPeriod_pos (by decide)) ((hrc _).mp (Function.isPeriodicPt_minimalPeriod xtime 1))

theorem rc_add_period {n : Nat} (h : 1 ≤ n) : rc (n + 51) = rc n := by
  rw [rc_of_pos h, rc_of_pos (by omega), Nat.sub_add_comm h, ← minimalPeriod_xtime_one,
    Function.iterate_add_minimalPeriod_eq]

theorem rc_add_mul_period {n : Nat} (h : 1 ≤ n) (m : Nat) : rc (n + 51 * m) = rc n := by
  induction m with
  | zero => rfl
  | succ m ih => rw [Nat.mul_succ, ← Nat.add_assoc, rc_add_period (by omega), ih]

theorem rc_one_add_ne {p : Nat} (hpos : 0 < p) (hlt : p < 51) : rc (1 + p) ≠ rc 1 := by
  rw [Nat.add_comm, rc_succ, rc_of_pos le_rfl]
  intro h
  exact Function.not_isPeriodicPt_of_pos_of_lt_minimalPeriod hpos.ne' (minimalPeriod_xtime_one ▸ hlt) (Option.some.inj h)

/-- Settles O52: the values up to the first period are evaluated, the later ones are theirs by the period. -/
theorem roundConstantsHavePeriod51 : Obligations.RoundConstantsHavePeriod51 := by
  have hlast : rc 51 = some 0x8D := by decide
  have hfirst : rc 1 = some 0x01 := rfl
  refine ⟨rc_zero, by decide, fun n => rc_add_period, fun p => rc_one_add_ne, hlast, ?_, ?_, ?_, ?_⟩
  · exact (rc_add_mul_period (n := 1) le_rfl 1).trans hfirst
  · exact (rc_add_mul_period (n := 51) (by decide) 4).trans hlast
  · exact (rc_add_mul_period (n := 1) le_rfl 5).trans hfirst
  · exact (rc_add_mul_period (n := 51) (by decide) 1284).trans hlast

/-! ### Words of a schedule (R147) -/

/-- The first words are the key's (R52, R147). -/
theorem scheduleWord_of_lt {key : List Byte} {nk i : Nat} (ws : List Word) (hi : i < nk) (hkey : key.length = 4 * nk)
    (o : Fin 4) : key[4 * i + o.val]? = some (scheduleWord key nk ws i)[o] := by
  have ho : 4 * i + o.val < key.length := by omega
  simp [scheduleWord, hi, ho]

/-- A later word, from the two words before it that it is made of, by the first of the three cases that applies (R147). -/
theorem scheduleWord_of_ge (key : List Byte) {nk i : Nat} {ws : List Word} {before back : Word} (hi : nk ≤ i)
    (hbefore : ws[i - 1]? = some before) (hback : ws[i - nk]? = some back) :
    scheduleWord key nk ws i =
      if i % nk = 0 then wordXor (wordXor back (subWord (rotWord before))) ((rcon (i / nk)).getD wordZero)
      else if 6 < nk ∧ i % nk = 4 then wordXor back (subWord before)
      else wordXor back before := by
  simp only [scheduleWord, if_neg (not_lt.mpr hi), List.getD_eq_getElem?_getD, hbefore, hback, Option.getD_some]

/-- A word before `word[i]` is the same word in the part of the schedule made so far as in the whole (R254). -/
theorem exists_scheduleWords_getElem? (key : List Byte) (nk : Nat) {j i total : Nat} (hj : j < i) (hi : i ≤ total) :
    ∃ w, (scheduleWords key nk total)[j]? = some w ∧ (scheduleWords key nk i)[j]? = some w := by
  rw [scheduleWords_getElem?_of_le key nk hj hi]
  exact ⟨_, scheduleWords_getElem? key nk hj, scheduleWords_getElem? key nk hj⟩

/-- Settles O53: by the index of the word, below `nk` or not; a later word has both words it is made of before it, and where
the recurrence asks for `Rcon` its index is not 0. -/
theorem scheduleWordsObeyTheRecurrence : Obligations.ScheduleWordsObeyTheRecurrence := by
  intro key nk total hnk hkey
  refine ⟨scheduleWords_length key nk total, fun i hi w hw => ?_⟩
  obtain rfl : scheduleWord key nk (scheduleWords key nk i) i = w := by
    simpa only [scheduleWords_getElem? key nk hi, Option.some.injEq] using hw
  refine ⟨fun hlt => scheduleWord_of_lt _ hlt hkey, fun hge => ?_⟩
  have hpos : 0 < nk := by omega
  obtain ⟨before, hbefore, hbefore'⟩ := exists_scheduleWords_getElem? key nk (j := i - 1) (by omega) hi.le
  obtain ⟨back, hback, hback'⟩ := exists_scheduleWords_getElem? key nk (j := i - nk) (by omega) hi.le
  have hword := scheduleWord_of_ge key hge hbefore' hback'
  refine ⟨before, back, hbefore, hback, fun h0 => ?_, fun h0 h4 => ?_, fun h0 h4 => ?_⟩
  · obtain ⟨k, hk⟩ := rcon_isSome (Nat.div_pos hge hpos).ne'
    exact ⟨k, hk, by rw [hword, if_pos h0, hk, Option.getD_some]⟩
  · rw [hword, if_neg h0, if_pos h4]
  · rw [hword, if_neg h0, if_neg h4]

/-! ### Blocks of a schedule (R146, R148, R149) -/

/-- The bytes of a key word are the key's next four. -/
theorem toList_scheduleWord_of_lt {key : List Byte} {nk i : Nat} (ws : List Word) (hi : i < nk)
    (hkey : key.length = 4 * nk) : (scheduleWord key nk ws i).toList = (key.drop (4 * i)).take 4 := by
  refine List.ext_getElem (by simp; omega) fun o ho _ => ?_
  have ho' : o < 4 := by simpa using ho
  have hbyte := scheduleWord_of_lt ws hi hkey ⟨o, ho'⟩
  rw [List.getElem?_eq_getElem (by simp; omega), Option.some.injEq] at hbyte
  simpa using hbyte.symm

/-- The key words of a schedule, one after another, are the key. -/
theorem flatMap_scheduleWords_eq_take {key : List Byte} {nk total : Nat} (hkey : key.length = 4 * nk) (htotal : nk ≤ total)
    {n : Nat} (hn : n ≤ nk) :
    ((List.range n).flatMap fun i => ((scheduleWords key nk total).getD i wordZero).toList) = key.take (4 * n) := by
  induction n with
  | zero => rfl
  | succ n ih =>
    have hword : (scheduleWords key nk total).getD n wordZero = scheduleWord key nk (scheduleWords key nk n) n := by
      rw [List.getD_eq_getElem?_getD, scheduleWords_getElem? key nk (by omega), Option.getD_some]
    rw [List.range_succ, List.flatMap_append, ih (by omega), List.flatMap_singleton, hword,
      toList_scheduleWord_of_lt _ hn hkey, Nat.mul_succ, List.take_add]

theorem wordsToBlocks_succ (ws : List Word) (count : Nat) :
    wordsToBlocks ws (count + 1) =
      wordsToBlocks ws count ++ [(List.range 4).flatMap fun j => (ws.getD (4 * count + j) wordZero).toList] := by
  simp only [wordsToBlocks, List.range_succ (n := count), List.map_append, List.map_singleton]

/-- Blocks of four words, one after another, are the words one after another. -/
theorem flatten_wordsToBlocks (ws : List Word) (count : Nat) :
    (wordsToBlocks ws count).flatten = (List.range (4 * count)).flatMap fun i => (ws.getD i wordZero).toList := by
  induction count with
  | zero => rfl
  | succ n ih =>
    rw [wordsToBlocks_succ, List.flatten_concat, ih, Nat.mul_succ, List.range_add, List.flatMap_append, List.flatMap_map]

theorem wordsToBlocks_length (ws : List Word) (count : Nat) : (wordsToBlocks ws count).length = count := by
  simp [wordsToBlocks]

theorem length_of_mem_wordsToBlocks {ws : List Word} {count : Nat} {b : List Byte} (h : b ∈ wordsToBlocks ws count) :
    b.length = 16 := by
  obtain ⟨k, -, rfl⟩ := List.mem_map.mp h
  simp [List.length_flatMap]

/-- The blocks of a schedule begin with the key (R149 (a)). -/
theorem take_flatten_wordsToBlocks {key : List Byte} {nk count : Nat} (hkey : key.length = 4 * nk) (hcount : nk ≤ 4 * count) :
    (wordsToBlocks (scheduleWords key nk (4 * count)) count).flatten.take key.length = key := by
  have hkeyWords := flatMap_scheduleWords_eq_take hkey hcount le_rfl
  rw [← hkey, List.take_length] at hkeyWords
  obtain ⟨rest, hrest⟩ := Nat.exists_eq_add_of_le hcount
  have hrange : List.range (4 * count) = List.range nk ++ (List.range rest).map (nk + ·) := by rw [hrest, List.range_add]
  rw [flatten_wordsToBlocks, hrange, List.flatMap_append, hkeyWords, List.take_left]

/-- The legal key lengths with the number of their blocks: one more than the rounds, and enough for the key words (R146). -/
theorem keyParams_of_blocks {len n : Nat} (h : (len, n) ∈ [(16, 11), (24, 13), (32, 15)]) :
    ∃ nk nr, keyParams len = some (nk, nr) ∧ len = 4 * nk ∧ n = nr + 1 ∧ nk ≤ 4 * n := by
  simp only [List.mem_cons, Prod.mk.injEq, List.not_mem_nil, or_false] at h
  rcases h with ⟨rfl, rfl⟩ | ⟨rfl, rfl⟩ | ⟨rfl, rfl⟩
  · exact ⟨4, 10, by decide⟩
  · exact ⟨6, 12, by decide⟩
  · exact ⟨8, 14, by decide⟩

theorem expand_of_illegal {key : List Byte} (h : ¬KeyLengthLegal key.length) :
    expand key = .error (.unsupportedKeyLength key.length) := by
  rw [expand, keyParams_of_illegal h]

/-- Settles O54, from the three key lengths of R146. -/
theorem expandGivesTheBlocksOfTheKey : Obligations.ExpandGivesTheBlocksOfTheKey := by
  refine fun key => ⟨fun n hn => ?_, expand_of_illegal⟩
  obtain ⟨nk, nr, hparams, hkey, rfl, hcount⟩ := keyParams_of_blocks hn
  refine ⟨_, by rw [expand, hparams], wordsToBlocks_length _ _, fun b => length_of_mem_wordsToBlocks, ?_⟩
  exact take_flatten_wordsToBlocks hkey hcount

end Sys2Proof.Machine
end

section
/-! PROOFS. The key schedule commands (42_key_schedule.md R150 to R156): what they leave of the key state and what they reply. -/

namespace Sys2Proof.Machine

theorem hasOpcode_of_imm_lt {i : Instr} (h : i.imm < 65536) : HasOpcode (BitVec.ofNat 8 i.fields.opc) i := encode_opcode h

/-! ### Loading and erasing the key (R150, R152) -/

/-- Byte `i` of a key just held is the key's (R150). -/
theorem getElem?_eq_holdKey_keybuf (s : State) {key : List Byte} {i : Fin 32} (h : i.val < key.length) :
    key[i.val]? = some (s.holdKey key).keybuf[i] := by
  simp [h]

theorem holdKey_keybuf_eq_zero (s : State) {key : List Byte} {i : Fin 32} (h : key.length ≤ i.val) :
    (s.holdKey key).keybuf[i] = 0 := by
  simp [h]

/-- Settles O35, by the length of the payload: `KEYLOAD` discards the schedule and then holds the key, or erases it before it
fails. -/
theorem keyloadHoldsTheKeyOrNone : Obligations.KeyloadHoldsTheKeyOrNone := by
  refine ⟨hasOpcode_of_imm_eq_zero rfl, fun s => ⟨fun h => ?_, fun h => ?_⟩⟩
  · refine ⟨_, execKeyload_of_legal h, fun i => getElem?_eq_holdKey_keybuf s.dropSchedule,
      fun i => holdKey_keybuf_eq_zero s.dropSchedule, klen_holdKey s.dropSchedule h, ?_⟩
    simp [SameMatrices, SameErrors, SameHost, RepliedOk, okResponse]
  · refine ⟨_, execKeyload_of_illegal h, recordsError_raised _ _ (Nat.zero_lt_succ 255) (Nat.zero_lt_succ 255), ?_⟩
    simp [SameMatrices, SameHost]

theorem execKclear_of_nil {s : State} (h : s.payload = []) :
    exec .kclear s = .next (s.dropKey.dropSchedule.replied []) :=
  noPayload_of_nil h _

/-- Settles O37. -/
theorem kclearErasesKeyAndSchedule : Obligations.KclearErasesKeyAndSchedule := by
  refine ⟨hasOpcode_of_imm_eq_zero rfl, fun s hp => ⟨_, execKclear_of_nil hp, ?_⟩⟩
  simp [SameMatrices, SameErrors, SameHost, RepliedOk, okResponse]

/-! ### Expanding the key and reading the schedule (R151, R153) -/

theorem execKexpand_of_key {s : State} (hp : s.payload = []) (hk : s.keyOk = true) :
    exec .kexpand s = .next (s.fillSchedule.replied []) :=
  (noPayload_of_nil hp _).trans (needKey_of_true hk _)

theorem execKexpand_of_no_key {s : State} (hp : s.payload = []) (hk : s.keyOk = false) :
    exec .kexpand s = .next (s.raised .keyNotReady) :=
  (noPayload_of_nil hp _).trans (needKey_of_false hk _)

/-- Where a key and its schedule are held, the blocks of the key are the round keys (R25, R148). -/
theorem expand_of_holdsSchedule {s : State} {key : List Byte} (h : HoldsSchedule s key) :
    expand key = .ok ((List.range (s.nr + 1)).map s.roundKey) := by
  rw [← h.keyHeld, expand_keyBytes h.legal, wordsToBlocks_of_schedule h.scheduleHeld]

@[simp] theorem fillSchedule_nr (s : State) : s.fillSchedule.nr = s.nr := by simp [State.nr]

/-- Above the schedule's words `W` is zero (R151). -/
theorem scheduleStore_get_of_le (key : List Byte) (nk : Nat) {nr : Nat} {i : Fin 60} (h : 4 * (nr + 1) ≤ i.val) :
    (scheduleStore key nk nr)[i] = wordZero := by
  rw [scheduleStore_get, List.getD_eq_default _ _ (by simpa using h)]

/-- Settles O36: after `KEXPAND` the core holds the schedule of its key. -/
theorem kexpandFillsTheSchedule : Obligations.KexpandFillsTheSchedule := by
  refine fun s hp => ⟨fun hk hlegal => ?_, fun hk => ?_⟩
  · have hholds : HoldsSchedule s.fillSchedule s.keyBytes := holdsSchedule_fillSchedule ⟨hk, hlegal, rfl⟩
    have hexpand := expand_of_holdsSchedule hholds
    rw [fillSchedule_nr] at hexpand
    refine ⟨_, _, execKexpand_of_key hp hk, hexpand, by simp, fun k hkr => ?_, fun i hi => ?_, ?_⟩
    · simp [Nat.lt_succ_of_le hkr]
    · rw [State.replied_w, State.fillSchedule_w, scheduleStore_get_of_le _ _ hi]
    · simp [SameMatrices, SameErrors, SameHost, RepliedOk, okResponse]
  · exact ⟨_, execKexpand_of_no_key hp hk, failedWith_raised s _ (by decide) (by decide)⟩

section
variable {s : State} {k : Nat}

theorem execRkread_of_le (hp : s.payload = []) (hr : s.rkOk = true) (hk : k ≤ s.nr) :
    exec (.rkread k) s = .next (s.replied (s.roundKey k)) :=
  (noPayload_of_nil hp _).trans ((needSchedule_of_true hr _).trans (indexUpTo_of_le hk s _))

theorem execRkread_of_no_schedule (hp : s.payload = []) (hr : s.rkOk = false) :
    exec (.rkread k) s = .next (s.raised .keyNotReady) :=
  (noPayload_of_nil hp _).trans (needSchedule_of_false hr _)

theorem execRkread_of_lt (hp : s.payload = []) (hr : s.rkOk = true) (hk : s.nr < k) :
    exec (.rkread k) s = .next (s.raised .indexRange) :=
  (noPayload_of_nil hp _).trans ((needSchedule_of_true hr _).trans (indexUpTo_of_lt hk s _))

end

/-- Settles O38: `NR` is at most 14, so the four words named stand in `W`. -/
theorem rkreadRepliesTheRoundKey : Obligations.RkreadRepliesTheRoundKey := by
  refine ⟨fun k hk => hasOpcode_of_imm_lt hk, fun k s hp => ⟨fun hr hk => ?_, fun hr => ?_, fun hr hk => ?_⟩⟩
  · refine ⟨_, _, execRkread_of_le hp hr hk, repliedOnly_replied s _, roundKey_length s k, fun j o => ?_⟩
    have hnr := nr_le s
    rw [roundKey_get, wordAt_eq s (by omega), Option.map_some]
  · exact ⟨_, execRkread_of_no_schedule hp hr, failedWith_raised s _ (by decide) (by decide)⟩
  · exact ⟨_, execRkread_of_lt hp hr hk, failedWith_raised s _ (by decide) (by decide)⟩

/-! ### Round constants and words (R154 to R156) -/

theorem execRc_of_pos {s : State} {j : Nat} (hp : s.payload = []) (hj : 1 ≤ j) :
    exec (.rc j) s = .next (s.replied [xtime^[j - 1] 1]) := by
  simp only [exec, execRc, noPayload_of_nil hp, rc_of_pos hj, reply]

theorem execRc_zero {s : State} (hp : s.payload = []) : exec (.rc 0) s = .next (s.raised .rconIndexZero) :=
  noPayload_of_nil hp _

/-- Settles O39. -/
theorem rcRepliesTheRoundConstant : Obligations.RcRepliesTheRoundConstant := by
  refine ⟨fun j hj => hasOpcode_of_imm_lt hj, fun j s hp => ⟨fun hj => ?_, fun hj => ?_⟩⟩
  · exact ⟨_, execRc_of_pos hp hj, repliedOnly_replied s _⟩
  · subst hj
    exact ⟨_, execRc_zero hp, failedWith_raised s _ (by decide) (by decide)⟩

theorem payloadWord_of_bytes {s : State} {a b c d : Byte} (h : s.payload = [a, b, c, d]) :
    s.payloadWord = wordOf a b c d := by
  simp only [State.payloadWord, State.payloadByte, h]
  rfl

theorem execRotword_of_bytes {s : State} {a b c d : Byte} (h : s.payload = [a, b, c, d]) :
    exec .rotword s = .next (s.replied [b, c, d, a]) := by
  have hreply : (rotWord s.payloadWord).toList = [b, c, d, a] := by
    rw [payloadWord_of_bytes h]
    rfl
  rw [← hreply]
  exact shapedPayload_of_eq (by simp [h]) _

theorem execSubword_of_bytes {s : State} {a b c d : Byte} (h : s.payload = [a, b, c, d]) :
    exec .subword s = .next (s.replied [subByte a, subByte b, subByte c, subByte d]) := by
  have hreply : (subWord s.payloadWord).toList = [subByte a, subByte b, subByte c, subByte d] := by
    rw [payloadWord_of_bytes h]
    rfl
  rw [← hreply]
  exact shapedPayload_of_eq (by simp [h]) _

theorem execRotword_of_length_ne {s : State} (h : s.payload.length ≠ 4) :
    exec .rotword s = .next (s.raised (.invalidLength s.payload.length 1 4)) :=
  shapedPayload_of_ne h _

theorem execSubword_of_length_ne {s : State} (h : s.payload.length ≠ 4) :
    exec .subword s = .next (s.raised (.invalidLength s.payload.length 1 4)) :=
  shapedPayload_of_ne h _

/-- Settles O40, by the length of the payload. -/
theorem rotwordAndSubwordReplyTheirWords : Obligations.RotwordAndSubwordReplyTheirWords := by
  refine ⟨hasOpcode_of_imm_eq_zero rfl, hasOpcode_of_imm_eq_zero rfl, fun s => ⟨fun a b c d h => ⟨?_, ?_⟩, fun h => ?_⟩⟩
  · exact ⟨_, execRotword_of_bytes h, repliedOnly_replied s _⟩
  · exact ⟨_, execSubword_of_bytes h, repliedOnly_replied s _⟩
  · have hfailed := failedWith_invalidLength s (rows := 1) (cols := 4) (by decide) (by decide)
    exact ⟨⟨_, execRotword_of_length_ne h, hfailed⟩, ⟨_, execSubword_of_length_ne h, hfailed⟩⟩

end Sys2Proof.Machine
end

section
/-! PROOFS. The transforms of the round pipeline byte by byte, and what its commands write and reply (43_round_pipeline.md R171 to
R187). -/

namespace Sys2Proof.Machine

/-! ### The transforms (R171 to R174) -/

@[simp] theorem subBytes_get (S : Block) (r c : Fin 4) : (subBytes S)[r][c] = subByte S[r][c] := matMap_get ..

@[simp] theorem addRoundKey_get (S K : Block) (r c : Fin 4) : (addRoundKey S K)[r][c] = S[r][c] ^^^ K[r][c] := matXor_get ..

theorem shiftRows_subBytes (S : Block) : shiftRows (subBytes S) = subBytes (shiftRows S) :=
  mat_ext fun r c => by rw [shiftRows_get, subBytes_get, subBytes_get, shiftRows_get]

/-- Four rotations by `r` are a rotation by a multiple of the row's length. -/
theorem shiftRows_four (S : Block) : shiftRows (shiftRows (shiftRows (shiftRows S))) = S := by
  refine mat_ext fun r c => ?_
  have hplace : c + r + r + r + r = c := by
    revert r c
    decide
  simp only [shiftRows_get, hplace]

theorem addRoundKey_addRoundKey (S K : Block) : addRoundKey (addRoundKey S K) K = S := matXor_cancel_right S K

/-- In wire order ShiftRows permutes the bytes (R180). -/
theorem wire_shiftRows_get (S : Block) (r c : Fin 4) :
    (wire (shiftRows S))[r.val + 4 * c.val]? = (wire S)[r.val + 4 * ((c.val + r.val) % 4)]? := by
  rw [wire_get, shiftRows_get, ← wire_get, Fin.val_add]

/-- Settles O57. -/
theorem transformsObeyTheirLaws : Obligations.TransformsObeyTheirLaws :=
  ⟨shiftRows_subBytes, shiftRows_four, addRoundKey_addRoundKey, wire_shiftRows_get⟩

/-- The entry 2 of `MIX` doubles (R122). -/
theorem gfMul_two_left (a : Byte) : gfMul 2#8 a = xtime a := by
  have hdouble : gfMul 2#8 a = xtime (gfMul 1#8 a) := gfMul_xtime_left 1#8 a
  rw [hdouble, gfMul_one_left]

/-- The entry 3 of `MIX` is `2 XOR 1` (R122). -/
theorem gfMul_three_left (a : Byte) : gfMul 3#8 a = xtime a ^^^ a := by
  have hsum : gfMul 3#8 a = gfMul 2#8 a ^^^ gfMul 1#8 a := gfMul_xor_left 2#8 1#8 a
  rw [hsum, gfMul_two_left, gfMul_one_left]

/-- A column mixed by the rows of `MIX`, each byte from the whole old column (R173). -/
theorem mixColumns_get (S : Block) (c : Fin 4) :
    (mixColumns S)[0][c] = gfMul 2#8 S[0][c] ^^^ gfMul 3#8 S[1][c] ^^^ gfMul 1#8 S[2][c] ^^^ gfMul 1#8 S[3][c] ∧
    (mixColumns S)[1][c] = gfMul 1#8 S[0][c] ^^^ gfMul 2#8 S[1][c] ^^^ gfMul 3#8 S[2][c] ^^^ gfMul 1#8 S[3][c] ∧
    (mixColumns S)[2][c] = gfMul 1#8 S[0][c] ^^^ gfMul 1#8 S[1][c] ^^^ gfMul 2#8 S[2][c] ^^^ gfMul 3#8 S[3][c] ∧
    (mixColumns S)[3][c] = gfMul 3#8 S[0][c] ^^^ gfMul 1#8 S[1][c] ^^^ gfMul 1#8 S[2][c] ^^^ gfMul 2#8 S[3][c] :=
  have hentry := fun r => matMul_get_four mix S (mulFnOp .gf) (addFnOp .gf) r c
  ⟨hentry 0, hentry 1, hentry 2, hentry 3⟩

/-! ### The three forms of a round (R175) -/

section
variable (rk : Nat → Block) {nRounds r : Nat} (S : Block)

theorem roundFn_zero : roundFn rk nRounds 0 S = addRoundKey S (rk 0) := rfl

theorem roundFn_of_lt (h0 : 0 < r) (h : r < nRounds) :
    roundFn rk nRounds r S = addRoundKey (mixColumns (shiftRows (subBytes S))) (rk r) := by
  rw [roundFn, if_neg h0.ne', if_pos h]

theorem roundFn_last (h0 : 0 < nRounds) :
    roundFn rk nRounds nRounds S = addRoundKey (shiftRows (subBytes S)) (rk nRounds) := by
  rw [roundFn, if_neg h0.ne', if_neg (lt_irrefl nRounds)]

end

/-! ### Loading and storing a block (R177, R178) -/

theorem execBlkload_of_block {s : State} (md : MReg) (h : s.payload.length = 16) :
    exec (.blkload md) s = .next ((s.writeM md (fromWire s.payload)).replied []) :=
  shapedPayload_of_eq h _

theorem execBlkload_of_length_ne {s : State} (md : MReg) (h : s.payload.length ≠ 16) :
    exec (.blkload md) s = .next (s.raised (.invalidLength s.payload.length 4 4)) :=
  shapedPayload_of_ne h _

/-- Settles O41: the bytes read column by column from the written register are the payload. -/
theorem blkloadPlacesBytesInWireOrder : Obligations.BlkloadPlacesBytesInWireOrder := by
  refine ⟨fun _ => hasOpcode_of_imm_eq_zero rfl, fun md s => ⟨fun h => ?_, fun h => ?_⟩⟩
  · refine ⟨_, execBlkload_of_block md h, wroteOnly_writeM md s _, fun r c => ?_⟩
    rw [readM_replied_writeM, ← wire_get, wire_fromWire h]
  · exact ⟨_, execBlkload_of_length_ne md h, failedWith_invalidLength s (by decide) (by decide)⟩

theorem execBlkstore_of_nil {s : State} (ma : MReg) (h : s.payload = []) :
    exec (.blkstore ma) s = .next (s.replied (wire (s.readM ma))) :=
  noPayload_of_nil h _

/-- Settles O42. -/
theorem blkstoreRepliesWireOrderBytes : Obligations.BlkstoreRepliesWireOrderBytes := by
  refine ⟨fun _ => hasOpcode_of_imm_eq_zero rfl, fun ma s hp => ?_⟩
  exact ⟨_, _, execBlkstore_of_nil ma hp, repliedOnly_replied s _, wire_length _, wire_get _⟩

/-! ### The transforms as commands (R179 to R181) -/

theorem execSubbytes_of_nil {s : State} (md : MReg) (h : s.payload = []) :
    exec (.subbytes md) s = .next ((s.writeM md (subBytes (s.readM md))).replied []) :=
  noPayload_of_nil h _

/-- Settles O43. -/
theorem subbytesAndShiftrowsChangeTheRegister : Obligations.SubbytesAndShiftrowsChangeTheRegister := by
  refine ⟨fun _ => ⟨hasOpcode_of_imm_eq_zero rfl, hasOpcode_of_imm_eq_zero rfl⟩, fun md s hp => ⟨?_, ?_⟩⟩
  · refine ⟨_, execSubbytes_of_nil md hp, wroteOnly_writeM md s _, fun r c => ?_⟩
    rw [readM_replied_writeM, subBytes_get]
  · refine ⟨_, execShiftrows_of_nil md hp, wroteOnly_writeM md s _, fun r c => ?_⟩
    rw [readM_replied_writeM, shiftRows_get]

/-- Settles O44: the products with the entries 1, 2 and 3 of `MIX`, written with `xtime`. -/
theorem mixcolumnsMixesEveryColumn : Obligations.MixcolumnsMixesEveryColumn := by
  refine ⟨fun _ => hasOpcode_of_imm_eq_zero rfl, fun md s hp => ?_⟩
  refine ⟨_, execMixcolumns_of_nil md hp, wroteOnly_writeM md s _, ?_⟩
  rintro c _ _ _ _ rfl rfl rfl rfl
  have hcolumn := mixColumns_get (s.readM md) c
  rw [readM_replied_writeM]
  simpa only [gfMul_one_left, gfMul_two_left, gfMul_three_left] using hcolumn

/-! ### The guards of the commands that read the schedule (R182 to R184, R219) -/

section
variable {s : State} {k : Nat}

theorem scheduleIndex_of_le (hp : s.payload = []) (hr : s.rkOk = true) (hk : k ≤ s.nr) (body : Result) :
    noPayload s (needSchedule s (indexUpTo s.nr k s body)) = body := by
  rw [noPayload_of_nil hp, needSchedule_of_true hr, indexUpTo_of_le hk]

/-- Without a schedule the body of the command is not reached, whatever index it names. -/
theorem failedWith_keyNotReady (hp : s.payload = []) (hr : s.rkOk = false) (body : Result) :
    ∃ t, noPayload s (needSchedule s body) = .next t ∧ FailedWith .keyNotReady s t :=
  ⟨_, (noPayload_of_nil hp _).trans (needSchedule_of_false hr _), failedWith_raised s _ (by decide) (by decide)⟩

theorem failedWith_indexRange (hp : s.payload = []) (hr : s.rkOk = true) (hk : s.nr < k) (body : Result) :
    ∃ t, noPayload s (needSchedule s (indexUpTo s.nr k s body)) = .next t ∧ FailedWith .indexRange s t := by
  rw [noPayload_of_nil hp, needSchedule_of_true hr, indexUpTo_of_lt hk]
  exact ⟨_, rfl, failedWith_raised s _ (by decide) (by decide)⟩

theorem execAddroundkey_of_le (md : MReg) (hp : s.payload = []) (hr : s.rkOk = true) (hk : k ≤ s.nr) :
    exec (.addroundkey md k) s = .next ((s.writeM md (addRoundKey (s.readM md) (s.roundKeyMat k))).replied []) :=
  scheduleIndex_of_le hp hr hk _

theorem execRound_of_le (md : MReg) (hp : s.payload = []) (hr : s.rkOk = true) (hk : k ≤ s.nr) :
    exec (.round md k) s = .next ((s.writeM md (roundFn s.roundKeyMat s.nr k (s.readM md))).replied []) :=
  scheduleIndex_of_le hp hr hk _

theorem execEncblock_of_schedule (md : MReg) (hp : s.payload = []) (hr : s.rkOk = true) :
    exec (.encblock md) s = .next ((s.writeM md (encryptBlock s.roundKeyMat s.nr (s.readM md))).replied []) :=
  (noPayload_of_nil hp _).trans (needSchedule_of_true hr _)

end

/-! ### Round keys and rounds (R182, R183) -/

/-- Settles O45: `NR` is at most 14, so the words of round key `k` stand in `W`. -/
theorem addroundkeyXorsTheRoundKey : Obligations.AddroundkeyXorsTheRoundKey := by
  refine ⟨fun _ _ hk => hasOpcode_of_imm_lt hk, fun md k s hp => ⟨fun hr hk => ?_, fun hr => ?_, fun hr hk => ?_⟩⟩
  · refine ⟨_, execAddroundkey_of_le md hp hr hk, wroteOnly_writeM md s _, fun r c => ?_⟩
    have hnr := nr_le s
    rw [readM_replied_writeM, addRoundKey_get, roundKeyMat_get, wordAt_eq s (by omega), Option.map_some]
  · exact failedWith_keyNotReady hp hr _
  · exact failedWith_indexRange hp hr hk _

/-- Settles O46: the three forms of a round by the index. -/
theorem roundAppliesItsTransforms : Obligations.RoundAppliesItsTransforms := by
  refine ⟨fun _ _ hr => hasOpcode_of_imm_lt hr, fun md r s hp => ⟨fun hs hr => ?_, fun hs => ?_, fun hs hr => ?_⟩⟩
  · refine ⟨_, execRound_of_le md hp hs hr, wroteOnly_writeM md s _, ?_⟩
    rw [readM_replied_writeM]
    refine ⟨fun h0 => ?_, fun h0 hlt => roundFn_of_lt _ _ h0 hlt, fun h0 hlast => ?_⟩
    · rw [h0, roundFn_zero]
    · subst hlast
      exact roundFn_last _ _ h0
  · exact failedWith_keyNotReady hp hs _
  · exact failedWith_indexRange hp hs hr _

/-! ### Encrypting a register (R176, R184) -/

/-- The rounds `rs` issued one by one leave the state that writes their composition at once; what a round before the last leaves
in the register and on the response channel is overwritten. -/
theorem runMacro_rounds (md : MReg) {rs : List Nat} {s : State} (hp : s.payload = []) (hr : s.rkOk = true)
    (hne : rs ≠ []) (hle : ∀ r ∈ rs, r ≤ s.nr) :
    (runMacro (rs.map fun r => (Instr.round md r, [])) s).1 =
      (s.writeM md (rs.foldl (fun S r => roundFn s.roundKeyMat s.nr r S) (s.readM md))).replied [] := by
  induction rs generalizing s with
  | nil => exact absurd rfl hne
  | cons r rs ih =>
    obtain ⟨hrle, hrsle⟩ := List.forall_mem_cons.mp hle
    have hwf : (Instr.round md r).WellFormed := (hrle.trans (nr_le s)).trans_lt (by decide)
    have hround : exec (.round md r) (s.accept [] s.host) =
        .next ((s.writeM md (roundFn s.roundKeyMat s.nr r (s.readM md))).replied []) := by
      rw [accept_of_nil hp, execRound_of_le md hp hr hrle]
    rw [List.map_cons, runMacro_cons_of_replied _ hwf hround, List.foldl_cons]
    by_cases hrs : rs = []
    · subst hrs
      rfl
    · have hrest := ih (s := (s.writeM md (roundFn s.roundKeyMat s.nr r (s.readM md))).replied []) rfl hr hrs hrsle
      simpa only [State.replied_nr, State.replied_roundKeyMat, State.writeM_nr, State.writeM_roundKeyMat,
        readM_replied_writeM, writeM_replied, replied_replied, writeM_writeM] using hrest

/-- Settles O47: the rounds of the block are those of the sequence. -/
theorem encblockEqualsItsRounds : Obligations.EncblockEqualsItsRounds := by
  refine ⟨fun _ => hasOpcode_of_imm_eq_zero rfl, fun md s hp => ⟨fun hr => ?_, fun hr => ?_⟩⟩
  · refine ⟨_, execEncblock_of_schedule md hp hr, wroteOnly_writeM md s _, readM_replied_writeM s md _ _, ?_⟩
    exact runMacro_rounds md hp hr (by simp) fun r hmem => Nat.le_of_lt_succ (List.mem_range.mp hmem)
  · exact failedWith_keyNotReady hp hr _

/-! ### Encrypting a message (R57, R186) -/

/-- Piece `i` of a concatenation of pieces of one length. -/
theorem take_drop_flatMap_range {α : Type} {f : Nat → List α} {len n i : Nat} (hf : ∀ j, (f j).length = len) (hi : i < n) :
    (((List.range n).flatMap f).drop (len * i)).take len = f i := by
  obtain ⟨rest, rfl⟩ := Nat.exists_eq_add_of_lt hi
  have hbefore : ((List.range i).flatMap f).length = len * i := by simp [List.length_flatMap, hf, Nat.mul_comm]
  rw [Nat.add_assoc, List.range_add, List.flatMap_append, List.drop_left' hbefore, List.range_succ_eq_map, List.map_cons,
    List.flatMap_cons, List.take_left' (hf _), Nat.add_zero]

theorem cipherBlock_length (rk : Nat → Block) (nRounds : Nat) (msg : List Byte) (i : Nat) :
    (cipherBlock rk nRounds msg i).length = 16 := wire_length _

theorem encryptMessage_length (rk : Nat → Block) (nRounds : Nat) {msg : List Byte} (h : msg.length % 16 = 0) :
    (encryptMessage rk nRounds msg).length = msg.length := by
  simp only [encryptMessage, List.length_flatMap, cipherBlock_length, List.map_const', List.sum_replicate, List.length_range,
    smul_eq_mul]
  omega

theorem messageBlock_encryptMessage (rk : Nat → Block) (nRounds : Nat) {msg : List Byte} {i : Nat} (h : i < msg.length / 16) :
    messageBlock (encryptMessage rk nRounds msg) i = cipherBlock rk nRounds msg i :=
  take_drop_flatMap_range (cipherBlock_length rk nRounds msg) h

/-- Settles O48: the length check comes before the schedule check, and the reply is cut into blocks as the payload is. -/
theorem encryptRepliesTheCiphertext : Obligations.EncryptRepliesTheCiphertext := by
  refine ⟨hasOpcode_of_imm_eq_zero rfl, fun s => ⟨fun hm hr => ?_, fun hm => ?_, fun hm hr => ?_⟩⟩
  · exact ⟨_, _, execEncrypt_of_schedule hm hr, repliedOnly_replied s _, encryptMessage_length _ _ hm,
      fun i => messageBlock_encryptMessage _ _⟩
  · exact ⟨_, execEncrypt_of_illegal_message hm, failedWith_raised s _ (Nat.zero_lt_succ 255) (Nat.zero_lt_succ 255)⟩
  · exact ⟨_, (messagePayload_of_eq hm _).trans (needSchedule_of_false hr _), failedWith_raised s _ (by decide) (by decide)⟩

end Sys2Proof.Machine
end

section
/-! PROOFS. The system commands that take no operand (44_system_ops.md R201 to R203): the state each one leaves. -/

namespace Sys2Proof.Machine

/-! ### NOP (R201) -/

theorem execNop_of_nil {s : State} (h : s.payload = []) : exec .nop s = .next (s.replied []) :=
  noPayload_of_nil h _

/-- Settles O19. -/
theorem nopWritesNothing : Obligations.NopWritesNothing :=
  fun s hp => ⟨_, execNop_of_nil hp, repliedOnly_replied s _⟩

/-! ### SRESET (R202) -/

theorem execSreset_of_nil {s : State} (h : s.payload = []) : exec .sreset s = .next (s.clearAll.replied []) :=
  noPayload_of_nil h _

/-- Of the state before, a reply after clearing everything keeps only what the host does next. -/
theorem replied_clearAll (s : State) (bytes : List Byte) :
    s.clearAll.replied bytes = { State.reset with host := s.host, response := some ⟨0, bytes⟩ } := rfl

/-- Settles O20: the state cleared and replied from is the reset state with the two channels. -/
theorem sresetGivesTheResetState : Obligations.SresetGivesTheResetState := by
  refine ⟨hasOpcode_of_imm_eq_zero rfl, fun s hp => ?_⟩
  rw [execSreset_of_nil hp, replied_clearAll]

/-! ### ERRCLR (R203) -/

theorem execErrclr_of_nil {s : State} (h : s.payload = []) : exec .errclr s = .next (s.clearErrors.replied []) :=
  noPayload_of_nil h _

/-- Clearing the error registers and replying leaves the matrix registers, the key state and the host's list. -/
theorem replied_clearErrors_frame (s : State) (bytes : List Byte) :
    SameMatrices s (s.clearErrors.replied bytes) ∧ SameKeyState s (s.clearErrors.replied bytes) ∧
      SameHost s (s.clearErrors.replied bytes) ∧ RepliedOk bytes (s.clearErrors.replied bytes) := by
  obtain ⟨hmat, hkey, -, hhost, hreply⟩ := repliedOnly_replied s.clearErrors bytes
  exact ⟨hmat, hkey, hhost, hreply⟩

/-- Settles O21: the five registers read zero, and the frame is that of a reply from the cleared state. -/
theorem errclrClearsOnlyTheErrorRegisters : Obligations.ErrclrClearsOnlyTheErrorRegisters := by
  refine ⟨hasOpcode_of_imm_eq_zero rfl, fun s hp => ⟨_, execErrclr_of_nil hp, ?_⟩⟩
  exact ⟨rfl, rfl, rfl, rfl, rfl, replied_clearErrors_frame s []⟩

end Sys2Proof.Machine
end

section
/-! PROOFS. Errors as this hardware's exceptions (60_exceptions.md R210 to R223, R233, R240, R241): which error is reported, what
it may depend on, what a failure and a success leave, and that no step stops the core. -/

namespace Sys2Proof.Machine

/-! ### The reported error (R210, R211, R219) -/

/-- A reported error is one of the row of its command. -/
theorem firstError_mem {s : State} {i : Instr} {e : CmdError} (h : firstError s i = some e) :
    ∃ c ∈ errorCauses s i, c.2 = e := by
  obtain ⟨c, hfind, rfl⟩ := Option.map_eq_some_iff.mp h
  exact ⟨c, List.mem_of_find?_eq_some hfind, rfl⟩

/-- No shape of the error table has more than 4 rows or 4 columns (R211, R214). -/
theorem errorCauses_shape_le (s : State) (i : Instr) : ∀ c ∈ errorCauses s i, c.2.rows ≤ 4 ∧ c.2.cols ≤ 4 := by
  cases i <;> simp [errorCauses, CmdError.rows, CmdError.cols]

/-- So the 8-bit registers `EROWS` and `ECOLS` hold the shape of a reported error as it is. -/
theorem recordsError_of_firstError {s : State} {i : Instr} {e : CmdError} (h : firstError s i = some e) (base : State) :
    RecordsError e (base.raised e) := by
  obtain ⟨c, hc, rfl⟩ := firstError_mem h
  obtain ⟨hrows, hcols⟩ := errorCauses_shape_le s i c hc
  exact recordsError_raised base c.2 (by omega) (by omega)

/-- The error table reads of the state only the payload length, `KEY_OK`, `RK_OK` and `NR` (R210). -/
theorem errorCauses_congr {s₁ s₂ : State} (hlen : s₁.payload.length = s₂.payload.length) (hkey : s₁.keyOk = s₂.keyOk)
    (hsched : s₁.rkOk = s₂.rkOk) (hnr : s₁.nr = s₂.nr) (i : Instr) : errorCauses s₁ i = errorCauses s₂ i := by
  cases i <;> simp only [errorCauses, hlen, hkey, hsched, hnr]

/-- Settles O12: a word that spells no command and a command's first error are both raised, and every error of the table fits
the error registers. -/
theorem reportedErrorIsTheFirstInOrder : Obligations.ReportedErrorIsTheFirstInOrder := by
  refine ⟨fun s cw payload rest hhost hd => ?_, fun i s e he => ?_, fun i s hnone => ?_⟩
  · cases hdec : decode cw with
    | ok i => exact absurd hdec (hd i)
    | error e =>
      exact ⟨_, step_illegal hhost hdec, recordsError_raised _ .illegalCommand (by decide) (by decide)⟩
  · exact ⟨_, exec_of_firstError he, recordsError_of_firstError he _⟩
  · obtain ⟨u, bytes, -, hexec⟩ := exec_of_no_error hnone
    exact ⟨_, bytes, hexec, rfl, rfl⟩

/-! ### The code of the response (R70, R77) -/

theorem errorResponse_code_toNat (e : CmdError) : (errorResponse e).code.toNat = e.code := by
  cases e <;> rfl

/-- The code a command answers: that of its error, or `OK` without one. -/
def answeredCode : Option CmdError → BitVec 8
  | some e => (errorResponse e).code
  | none => 0

theorem code_eq_answeredCode {i : Instr} {s t : State} {r : Response} (h : exec i s = .next t) (hr : t.response = some r) :
    r.code = answeredCode (firstError s i) := by
  rcases exec_next h with ⟨e, he, rfl⟩ | ⟨hnone, u, bytes, -, rfl⟩
  · obtain rfl : errorResponse e = r := Option.some.inj hr
    rw [he]
    rfl
  · obtain rfl : okResponse bytes = r := Option.some.inj hr
    rw [hnone]
    rfl

/-- Settles O13: the code is that of the first error, and the error table reads nothing but the four inputs. -/
theorem failureNeverDependsOnData : Obligations.FailureNeverDependsOnData := by
  intro i s₁ s₂ t₁ t₂ r₁ r₂ hlen hkey hsched hnr h₁ h₂ hr₁ hr₂
  rw [code_eq_answeredCode h₁ hr₁, code_eq_answeredCode h₂ hr₂, firstError, firstError,
    errorCauses_congr hlen hkey hsched hnr]

/-! ### What a failure and a success leave (R217, R220, R223) -/

theorem sameMatrices_failureState (s : State) (i : Instr) : SameMatrices s (failureState s i) := by
  cases i <;> exact fun _ => rfl

theorem failureState_of_ne_keyload (s : State) {i : Instr} (h : i ≠ .keyload) : failureState s i = s := by
  cases i with
  | keyload => exact absurd rfl h
  | _ => rfl

theorem sameErrors_of_writes {i : Instr} {s u : State} (h : Writes s i u) (hclear : i ≠ .errclr) (hreset : i ≠ .sreset) :
    SameErrors s u := by
  cases h with
  | everything => exact absurd rfl hreset
  | errors => exact absurd rfl hclear
  | nothing | register | key | schedule | noKey => simp [SameErrors]

theorem sameErrors_replied {s u : State} (h : SameErrors s u) (bytes : List Byte) : SameErrors s (u.replied bytes) := h

/-- Settles O11: a failure is raised in `failureState`, which differs from the state before in the key state of `KEYLOAD` only,
and of what a success writes only `ERRCLR` and `SRESET` touch the error registers. -/
theorem failuresArePrecise : Obligations.FailuresArePrecise := by
  intro i s t r hexec hr
  rcases exec_next hexec with ⟨e, he, rfl⟩ | ⟨-, u, bytes, hw, rfl⟩
  · obtain rfl : errorResponse e = r := Option.some.inj hr
    obtain ⟨herr, hcode, -⟩ := recordsError_of_firstError he (failureState s i)
    refine ⟨fun _ => ⟨herr, ?_, sameMatrices_failureState s i, host_failureState s i, fun hi => ?_⟩,
      fun hok => absurd hok (errorResponse_code_ne_zero e)⟩
    · rw [hcode, errorResponse_code_toNat]
    · rw [failureState_of_ne_keyload s hi]
      exact sameKeyState_refl s
  · obtain rfl : okResponse bytes = r := Option.some.inj hr
    exact ⟨fun hfail => absurd rfl hfail, fun _ hclear hreset => sameErrors_replied (sameErrors_of_writes hw hclear hreset) bytes⟩

/-! ### Every step (R218, R222, R233, R240, R241) -/

/-- Settles O15. -/
theorem appliedResetAbandonsTheCommand : Obligations.AppliedResetAbandonsTheCommand :=
  ⟨fun _ _ => step_reset, fun _ _ _ _ => step_commandCutByReset, fun _ => step_idle⟩

/-- Settles O9, by the host's next action: a presented command, legal or not, is answered, and the other actions leave a state
each. -/
theorem noStateStopsTheCore : Obligations.NoStateStopsTheCore := by
  intro s
  rcases hhost : s.host with _ | ⟨_ | _ | _, rest⟩
  case nil => exact ⟨s, step_idle hhost⟩
  case cons.command cw payload =>
    obtain ⟨t, -, hstep, -⟩ := everyPresentedCommandIsAnswered s cw payload rest hhost
    exact ⟨t, hstep⟩
  case cons.reset => exact ⟨_, step_reset hhost⟩
  case cons.commandCutByReset => exact ⟨_, step_commandCutByReset hhost⟩

end Sys2Proof.Machine
end
